-- ==== Sys2Proof/Word.lean ====
section
/-! DEFINITION. The bit-vector types of the TinyFan display block (spec/30_encoding.md R70, R71; every quantity is
unsigned, spec/00_scope.md R7). One name per width the spec gives a register, an operand or a port. -/

namespace Sys2Proof

/-- A SEG8 or SEL8 byte (R73, R78). -/
abbrev Byte := BitVec 8

/-- A 16-bit word: VAL16, BCD16 or FRAME16 (R71, R72, R79). -/
abbrev Word16 := BitVec 16

/-- One packed decimal digit of a BCD16 word (R72). -/
abbrev Nibble := BitVec 4

/-- The encoder's 32-bit shift register (R28). -/
abbrev Word32 := BitVec 32

/-- A digit index, the 2-bit operand of `REFRESH` and the value of the cursor (R23, R51). -/
abbrev Digit := BitVec 2

/-- The 6-bit sequencer phase (R25). -/
abbrev Phase := BitVec 6

/-- A command word on port `cmd[19:0]` (R82). -/
abbrev CmdWord := BitVec 20

end Sys2Proof
end

