-- ==== Sys2Proof/Config.lean ====
section
/-! DEFINITION. What is fixed for the machine: the numbers of spec/00_scope.md R4, the blank pattern (R76), the
constraints on the segment table (R75) and its default contents (R74). The table itself is a parameter (R5 (a)): it
stands in State as read-only data, so that a claim about every state is a claim about every table. -/

namespace Sys2Proof

/-- The eleven patterns of the segment table, indices 0 to 10 (R30, R75 (a)). -/
abbrev SegTable := Vector Byte 11

namespace Config

/-- `MAXVAL` (R4): the largest magnitude shown as digits. -/
def maxVal : Nat := 9999

/-- `NITER` (R4): double-dabble iterations. -/
def nIter : Nat := 16

/-- `OVF_IDX` (R4): table index of the overflow sentinel. -/
def ovfIdx : Nat := 10

/-- The last micro-step of a refresh (R144). -/
def lastStep : Nat := 51

/-- Clock edges one refresh occupies: the accepting edge and 51 micro-steps (R145, R231); also the least `T_TICK` (R226). -/
def refreshEdges : Nat := 52

/-- `BLANK` (R76): no segment lit. -/
def blank : Byte := 0xFF

/-- The default `SEG_TABLE` (R74). Its shapes are general knowledge, not the source's (log entry 1). -/
def defaultSegTable : SegTable :=
  #v[0x03, 0x9F, 0x25, 0x0D, 0x99, 0x49, 0x41, 0x1F, 0x01, 0x09, 0x08]

end Config

/-- R75 (c): the eleven entries are pairwise different. -/
abbrev SegTable.Distinct (t : SegTable) : Prop := ∀ i j : Fin 11, t[i] = t[j] → i = j

/-- R75 (d): entry 10 is entry 9 with the dot lit. -/
abbrev SegTable.DotEntry (t : SegTable) : Prop :=
  t[10] = t[9] &&& 0xFE ∧ t[9].getLsbD 0 = true

/-- R75 (e): no entry is the blank pattern. -/
abbrev SegTable.NoBlank (t : SegTable) : Prop := ∀ i : Fin 11, t[i] ≠ Config.blank

/-- R75: what a model may assume of `SEG_TABLE`; (a) and (b) are the type and the absence of any write. -/
abbrev SegTable.Legal (t : SegTable) : Prop := t.Distinct ∧ t.DotEntry ∧ t.NoBlank

end Sys2Proof
end

