-- ==== Sys2Proof/Syntax.lean ====
section
/-! DEFINITION. The instructions: one constructor per row of spec/opcode_table.json. Six are the commands of the host
port (CMD20, spec/30_encoding.md R83); four are the transmission words the sequencer sends (FRAME16, R79). -/

namespace Sys2Proof

/-- One constructor per row of the opcode table. -/
inductive Instr where
  /-- `NOP` (R172). -/
  | nop
  /-- `ENCODE v` (R104). -/
  | encode (v : Word16)
  /-- `RENDER.N v` (R127). -/
  | renderN (v : Word16)
  /-- `RENDER.P p` (R128). -/
  | renderP (p : Word16)
  /-- `TICK` (R147). -/
  | tick
  /-- `REFRESH i` (R146). -/
  | refresh (i : Digit)
  /-- `FRAME.D0`: the frame of digit 0, units (R79). -/
  | frameD0 (seg : Byte)
  /-- `FRAME.D1`: the frame of digit 1, tens (R79). -/
  | frameD1 (seg : Byte)
  /-- `FRAME.D2`: the frame of digit 2, hundreds (R79). -/
  | frameD2 (seg : Byte)
  /-- `FRAME.D3`: the frame of digit 3, thousands (R79). -/
  | frameD3 (seg : Byte)
deriving DecidableEq, Repr

end Sys2Proof
end

