-- ==== Sys2Proof/WellFormed.lean ====
section
/-! DEFINITION. The two checks on an instruction's operands. Operand widths are in the types, so every term encodes;
what is left to check is the range for which the spec gives a result (R87, R103) and the range of the source's own
type `Percent(0..100)` (R81, spec/93 U9). -/

namespace Sys2Proof

/-- The operand has a defined result: `ENCODE v` needs `v <= 9999` (R87, R103); every other instruction is defined for
every operand (R185). -/
def Instr.wellFormed : Instr → Bool
  | .encode v => decide (v.toNat ≤ Config.maxVal)
  | .nop => true
  | .renderN _ => true
  | .renderP _ => true
  | .tick => true
  | .refresh _ => true
  | .frameD0 _ => true
  | .frameD1 _ => true
  | .frameD2 _ => true
  | .frameD3 _ => true

/-- The operand lies in the source's type: `Percent(0..100)` and the encoder's 0..9999. The hardware checks neither
(R81, R128); a host that keeps to the source's types passes this check. -/
def Instr.inSourceType : Instr → Bool
  | .renderP p => decide (p.toNat ≤ 100)
  | .encode v => decide (v.toNat ≤ Config.maxVal)
  | .nop => true
  | .renderN _ => true
  | .tick => true
  | .refresh _ => true
  | .frameD0 _ => true
  | .frameD1 _ => true
  | .frameD2 _ => true
  | .frameD3 _ => true

/-- The instruction is one of the six commands of R83 (and not a transmission word). -/
def Instr.isCommand : Instr → Bool
  | .nop => true
  | .encode _ => true
  | .renderN _ => true
  | .renderP _ => true
  | .tick => true
  | .refresh _ => true
  | .frameD0 _ => false
  | .frameD1 _ => false
  | .frameD2 _ => false
  | .frameD3 _ => false

end Sys2Proof
end

