-- ==== Sys2Proof/Decode.lean ====
section
/-! DEFINITION. The decoders of the two instruction formats, CMD20 (spec/30_encoding.md R82 to R85) and FRAME16 (R78,
R79), total and rejecting by name, and after them the encoder. A command word is one 20-bit parallel word and has no
byte order (R53 (h)); a frame is one 16-bit word. -/

namespace Sys2Proof

/-- Why a word is no instruction. -/
inductive DecodeError where
  /-- CMD20 with `op` = 5, 6 or 7 (R85 (a)). -/
  | reservedOpcode (op : BitVec 3)
  /-- FRAME16 whose digit-select byte is none of the four of R78 (R85 (e)). -/
  | selectNotOneHot (sel : Byte)
deriving DecidableEq, Repr

/-- `op = cmd[19:17]` (R82). -/
def opField (w : CmdWord) : BitVec 3 := w.extractLsb' 17 3

/-- `t = cmd[16]` (R82): 1 is Percent. -/
def tField (w : CmdWord) : Bool := w.getLsbD 16

/-- `arg = cmd[15:0]` (R82). -/
def argField (w : CmdWord) : Word16 := w.extractLsb' 0 16

/-- `i = arg[1:0]` (R84). -/
def digitField (w : CmdWord) : Digit := w.extractLsb' 0 2

/-- The opcode map of R83; bits a command does not use are ignored (R84). -/
def decodeCommand (w : CmdWord) : Except DecodeError Instr :=
  match (opField w).toNat with
  | 0 => .ok .nop
  | 1 => .ok (.encode (argField w))
  | 2 => .ok (if tField w then .renderP (argField w) else .renderN (argField w))
  | 3 => .ok .tick
  | 4 => .ok (.refresh (digitField w))
  | _ => .error (.reservedOpcode (opField w))

/-- The digit-select byte of a frame, `w[15:8]` (R79). -/
def selField (w : Word16) : Byte := w.extractLsb' 8 8

/-- The segment byte of a frame, `w[7:0]` (R79). -/
def segField (w : Word16) : Byte := w.extractLsb' 0 8

/-- `digit_of(s)` (R89): the digit position a select byte selects. -/
def digitOf (sel : Byte) : Option Digit :=
  if sel = 0x80 then some 0
  else if sel = 0x40 then some 1
  else if sel = 0x20 then some 2
  else if sel = 0x10 then some 3
  else none

/-- The four frames of R79. -/
def decodeFrame (w : Word16) : Except DecodeError Instr :=
  if selField w = 0x80 then .ok (.frameD0 (segField w))
  else if selField w = 0x40 then .ok (.frameD1 (segField w))
  else if selField w = 0x20 then .ok (.frameD2 (segField w))
  else if selField w = 0x10 then .ok (.frameD3 (segField w))
  else .error (.selectNotOneHot (selField w))

/-- A word of one of the two formats. -/
inductive Encoded where
  | cmd (w : CmdWord)
  | frame (w : Word16)
deriving DecidableEq, Repr

/-- Decoding a word of either format. -/
def decode : Encoded → Except DecodeError Instr
  | .cmd w => decodeCommand w
  | .frame w => decodeFrame w

/-- `op`, `t` and `arg` put together (R82). -/
def cmdWord (op : BitVec 3) (t : BitVec 1) (arg : Word16) : CmdWord := op ++ t ++ arg

/-- `{sel, seg}` (R79). -/
def frameOf (sel seg : Byte) : Word16 := sel ++ seg

/-- The encoder: the rows of R83, unused bits written as zero (R82), and the frames of R79. -/
def encode : Instr → Encoded
  | .nop => .cmd (cmdWord 0 0 0)
  | .encode v => .cmd (cmdWord 1 0 v)
  | .renderN v => .cmd (cmdWord 2 0 v)
  | .renderP p => .cmd (cmdWord 2 1 p)
  | .tick => .cmd (cmdWord 3 0 0)
  | .refresh i => .cmd (cmdWord 4 0 (i.zeroExtend 16))
  | .frameD0 seg => .frame (frameOf 0x80 seg)
  | .frameD1 seg => .frame (frameOf 0x40 seg)
  | .frameD2 seg => .frame (frameOf 0x20 seg)
  | .frameD3 seg => .frame (frameOf 0x10 seg)

/-- The word as a number, bit 0 the least significant, as the opcode table numbers it. -/
def Encoded.toNat : Encoded → Nat
  | .cmd w => w.toNat
  | .frame w => w.toNat

/-- `match` of the table's row (R83, R79). -/
def rowMatch : Instr → Nat
  | .nop => 0x00000
  | .encode _ => 0x20000
  | .renderN _ => 0x40000
  | .renderP _ => 0x50000
  | .tick => 0x60000
  | .refresh _ => 0x80000
  | .frameD0 _ => 0x8000
  | .frameD1 _ => 0x4000
  | .frameD2 _ => 0x2000
  | .frameD3 _ => 0x1000

/-- `mask` of the table's row (R83, R79). -/
def rowMask : Instr → Nat
  | .nop => 0xE0000
  | .encode _ => 0xE0000
  | .renderN _ => 0xF0000
  | .renderP _ => 0xF0000
  | .tick => 0xE0000
  | .refresh _ => 0xE0000
  | .frameD0 _ => 0xFF00
  | .frameD1 _ => 0xFF00
  | .frameD2 _ => 0xFF00
  | .frameD3 _ => 0xFF00

/-- The instruction decoded from a word of the opcode table: rows of at most 16 bits are FRAME16 words, longer rows
are CMD20 words (log entry 7). A number too large for its format is no word of it. -/
def decodeTableWord (nbits w : Nat) : Option Instr :=
  if nbits ≤ 16 then
    if w < 2 ^ 16 then (decodeFrame (BitVec.ofNat 16 w)).toOption else none
  else
    if w < 2 ^ 20 then (decodeCommand (BitVec.ofNat 20 w)).toOption else none

end Sys2Proof
end

