-- ==== Sys2Proof/Machine/State.lean ====
section
/-! DEFINITION. The state: the registers of TFD (spec/10_state.md R20), the segment table it reads (R30), the receiving
shift registers (R33, R195), what an observer of the bus records (R149, R201), and the input ports as the list of what
the host puts on them at the coming clock edges (R170, R36). Plain data throughout. -/

namespace Sys2Proof.Machine

/-- The three output lines (R26). -/
inductive Line where
  | sda
  | sck
  | lat
deriving DecidableEq, Repr

/-- One entry of the event trace (R149): a pin write, or the no-operation marker. -/
inductive Event where
  | pin (line : Line) (level : Bool)
  | nop
deriving DecidableEq, Repr

/-- The input ports at one rising edge of `clk` (R170). -/
structure PortIn where
  rst : Bool
  cmdValid : Bool
  cmd : CmdWord
deriving DecidableEq, Repr

/-- No reset and no command: `rst = 0`, `cmd_valid = 0`. -/
def PortIn.idle : PortIn := { rst := false, cmdValid := false, cmd := 0 }

/-- The host presents the word `w` (R87). -/
def PortIn.present (w : CmdWord) : PortIn := { rst := false, cmdValid := true, cmd := w }

/-- The whole state of a run. -/
structure State where
  /-- `DB[0..3]` (R21): the DisplayBuffer, index 0 the units digit. -/
  db : Vector Byte 4
  /-- `BCD` (R22): the result of the last `ENCODE`. -/
  bcd : Word16
  /-- `CUR` (R23): the digit multiplex cursor. -/
  cur : Digit
  /-- `TXW` (R24): the transmission word. -/
  txw : Word16
  /-- `PH` (R25): 0 idle, 1 to 51 the next micro-step. -/
  ph : Phase
  /-- `SDA` (R26): the serial-data line. -/
  sda : Bool
  /-- `SCK` (R26): the shift-clock line. -/
  sck : Bool
  /-- `LAT` (R26): the latch-clock line. -/
  lat : Bool
  /-- `SEG_TABLE[0..10]` (R30): read-only, a parameter of the model (R5 (a)). -/
  segTable : SegTable
  /-- `SR[15:0]` (R195): the receiver's shift stage. -/
  sr : Word16
  /-- `OUT[15:0]` (R195): the receiver's output latch. -/
  out : Word16
  /-- `seen[i]` (R201): the segment byte of the last latched frame that selected position `i`, if any. -/
  seen : Vector (Option Byte) 4
  /-- The event trace, oldest first (R149). -/
  trace : List Event
  /-- What the host puts on the input ports at the coming edges, next edge first (R36, R170). -/
  inputs : List PortIn
deriving DecidableEq, Repr

/-- The machine raises no exception of any kind (R185), so there is no fault: the type is empty. -/
inductive Fault
deriving DecidableEq, Repr

/-- Why the model gives a run no meaning from here on (`refuse`, R8). -/
inductive Refusal where
  /-- Raised by `exec` for an instruction without a meaning yet; no arm does. Safe. -/
  | notModelled (mnemonic : String)
  /-- Raised at the clock edge that would accept a command word with `op` = 5, 6 or 7 (R85 (a), spec/93 U2). Safe. -/
  | reservedCommand
  /-- Raised by `ENCODE v` with `v > 9999` (R103, R104, spec/93 U1). Safe. -/
  | encoderInputOutOfRange
  /-- Raised by a renderer's lookup at an index above 10 (R61, spec/93 U3); never reached. Safe. -/
  | lutIndexOutOfRange
  /-- Raised by the sequencer at `PH` = 52 to 63, which has no micro-step (R25, spec/93 U13); never reached. Safe. -/
  | phaseOutOfRange
deriving DecidableEq, Repr

/-- TFD in its reset state (R35), with the parameters the spec leaves open as arguments: the segment table (R5 (a)),
the power-on contents of the receiver (R5 (c), R198) and the host's inputs (R36). Nothing has been sent or seen yet. -/
def State.afterReset (segTable : SegTable) (sr out : Word16) (inputs : List PortIn) : State :=
  { db := #v[0xFF, 0xFF, 0xFF, 0xFF]
    bcd := 0
    cur := 3
    txw := 0
    ph := 0
    sda := false
    sck := false
    lat := false
    segTable := segTable
    sr := sr
    out := out
    seen := #v[none, none, none, none]
    trace := []
    inputs := inputs }

/-- The machine right after reset. The table is the default of R74 (log entry 1), the receiver holds zeros (log entry
2: DESIGN CHOICE, unsafe; the spec says any value), and the host presents nothing (log entry 3). -/
def State.reset : State := State.afterReset Config.defaultSegTable 0 0 []

end Sys2Proof.Machine
end

