-- ==== Sys2Proof/Machine/Operands.lean ====
section
/-! DEFINITION. The operand forms inside the operations (spec/30_encoding.md R84): the nibble of a BCD16 word, the
select byte and the frame of a digit, one bit of `TXW`, and the DisplayedValue of a `RENDER` command. -/

namespace Sys2Proof.Machine

/-- A DisplayedValue, DV17 (R81): the tag `t` (true is Percent) and the magnitude `m`. -/
structure DisplayedValue where
  percent : Bool
  m : Word16
deriving DecidableEq, Repr

/-- The 17 bits of a DisplayedValue, `{t, m}` (R81). -/
def DisplayedValue.bits (d : DisplayedValue) : BitVec 17 := BitVec.ofBool d.percent ++ d.m

/-- Nibble `k` of a 16-bit word, `w[4k+3:4k]` (R7, R84). -/
def nibble (w : Word16) (k : Nat) : Nibble := w.extractLsb' (4 * k) 4

/-- The number four packed decimal digits stand for (R72). -/
def bcdValue (b : Word16) : Nat :=
  (nibble b 3).toNat * 1000 + (nibble b 2).toNat * 100 + (nibble b 1).toNat * 10 + (nibble b 0).toNat

/-- `sel(i) = 0x80 >> i` (R78). -/
def sel (i : Digit) : Byte := 0x80 >>> i.toNat

/-- `frame(i, p) = {sel(i), p}` (R79). -/
def frame (i : Digit) (p : Byte) : Word16 := frameOf (sel i) p

/-- The bit of the transmission word that micro-steps `3j+1` to `3j+3` handle, `b = 15 - j` (R144). -/
def txBit (w : Word16) (j : Nat) : Bool := w.getLsbD (15 - j)

end Sys2Proof.Machine
end

