-- ==== Sys2Proof/Machine/Flags.lean ====
section
/-! DEFINITION. Everything the spec computes as a status or a condition: `busy` and `cmd_ready` (spec/10_state.md R27),
the renderer's overflow test (spec/41_digit_renderer.md R121) and the output ports (spec/43_host_port.md R170). There are
no condition codes (R27). -/

namespace Sys2Proof.Machine

/-- `busy`: a refresh is in progress, `PH != 0` (R27). -/
def State.busy (s : State) : Bool := s.ph != 0

/-- `cmd_ready`: the complement of `busy` (R27). -/
def State.cmdReady (s : State) : Bool := !s.busy

/-- `m > 9999`, unsigned on 16 bits (R105 (f), R121). -/
def exceedsMax (m : Word16) : Bool := decide (Config.maxVal < m.toNat)

/-- The output ports (R170). -/
structure PortOut where
  cmdReady : Bool
  busy : Bool
  cur : Digit
  bcd : Word16
  sda : Bool
  sck : Bool
  lat : Bool
deriving DecidableEq, Repr

/-- Every output is a register or a function of `PH` alone (R170). -/
def State.ports (s : State) : PortOut :=
  { cmdReady := s.cmdReady, busy := s.busy, cur := s.cur, bcd := s.bcd, sda := s.sda, sck := s.sck, lat := s.lat }

end Sys2Proof.Machine
end

