-- ==== Sys2Proof/Machine/Receiver.lean ====
section
/-! DEFINITION. The receiving shift registers (spec/60_exceptions.md R195 to R197, R205) as they react to one event on the
bus, and the observer's record `seen` (R201). Each function is applied to the state before the event, so `s.sck` and
`s.lat` are the old levels. -/

namespace Sys2Proof.Machine

/-- `{ SR[14:0], SDA }` (R196). -/
def shiftIn (sr : Word16) (bit : Bool) : Word16 := sr.extractLsb' 0 15 ++ BitVec.ofBool bit

/-- `seen` after the frame `w` is latched (R201): the position it selects takes its segment byte. -/
def seenAfterLatch (w : Word16) (seen : Vector (Option Byte) 4) : Vector (Option Byte) 4 :=
  match digitOf (selField w) with
  | some i => seen.set i.toNat (some (segField w)) i.isLt
  | none => seen

/-- The event is a rising edge of `SCK` (R196). -/
def sckRises (e : Event) (s : State) : Bool := e == .pin .sck true && !s.sck

/-- The event is a rising edge of `LAT` (R197). -/
def latRises (e : Event) (s : State) : Bool := e == .pin .lat true && !s.lat

/-- The receiver takes the event: it shifts on a rising `SCK`, latches on a rising `LAT`, and ignores everything else
(R196, R197, R205). -/
def receive (e : Event) (s : State) : State :=
  if sckRises e s then { s with sr := shiftIn s.sr s.sda }
  else if latRises e s then { s with out := s.sr, seen := seenAfterLatch s.sr s.seen }
  else s

end Sys2Proof.Machine
end

