-- ==== Sys2Proof/Machine/Ops.lean ====
section
/-! DEFINITION. The operations the instructions share: the reads and the publish of the two stores (spec/20_memory.md
R50, R55), pin writes (`emit`, spec/00_scope.md R8), the start of a refresh and its micro-steps
(spec/42_refresh_driver.md R141, R144), reset (spec/70_reset_and_hazards.md R220), and the rule that a command takes effect
only while the port is ready (spec/43_host_port.md R171). There is no exception to take and none to return from (R185,
R190, R191): the start of a refresh and micro-step 51 are the spec's nearest counterparts. -/

namespace Sys2Proof.Machine

/-- The answer of a meaning. -/
abbrev Result := Host.Outcome State Fault Refusal

/-- `MemRead(DBS, i, 1)` = `DB[i]` (R8, R50); a 2-bit index is always in range (R61). -/
def dbsRead (s : State) (i : Digit) : Byte := s.db[i.toNat]'(i.isLt)

/-- `MemRead(LUT, n, 1)` = `SEG_TABLE[n]` (R8, R50); nothing at an index above 10 (R61). -/
def lutRead (t : SegTable) (n : Nat) : Option Byte := t[n]?

/-- `publish(p)` (R126): all four entries in one transition. -/
def publish (p : Vector Byte 4) (s : State) : State := { s with db := p }

/-- `build(i)` (R141): `TXW <- { sel(i), DB[i] }`. -/
def build (i : Digit) (s : State) : State := { s with txw := frame i (dbsRead s i) }

/-- `build(i); PH <- 1` (R146, R147): the transition that starts a refresh. -/
def startRefresh (i : Digit) (s : State) : State := { build i s with ph := 1 }

/-- `CUR <- (CUR + 1) mod 4` (R147). -/
def advanceCursor (s : State) : State := { s with cur := s.cur + 1 }

/-- The pin register an event writes (R26). -/
def drive (e : Event) (s : State) : State :=
  match e with
  | .pin .sda l => { s with sda := l }
  | .pin .sck l => { s with sck := l }
  | .pin .lat l => { s with lat := l }
  | .nop => s

/-- `emit` (R8): the event goes to the trace, the receiver takes it, and the pin register takes the level. -/
def emit (e : Event) (s : State) : State :=
  drive e { receive e s with trace := s.trace ++ [e] }

/-- The event of micro-step `p` of the frame `w` (R144); none outside 1 to 51. -/
def microEvent (w : Word16) (p : Nat) : Option Event :=
  if 1 ≤ p ∧ p ≤ 48 then
    match (p - 1) % 3 with
    | 0 => some (.pin .sda (txBit w ((p - 1) / 3)))
    | 1 => some (.pin .sck true)
    | _ => some (.pin .sck false)
  else if p = 49 then some (.pin .lat true)
  else if p = 50 then some .nop
  else if p = 51 then some (.pin .lat false)
  else none

/-- `PH` after a micro-step (R144): one more, and 0 after micro-step 51. -/
def nextPhase (ph : Phase) : Phase := if ph = 51 then 0 else ph + 1

/-- Micro-step `PH` of the frame `w` (R144, R145). Phases 52 to 63 have none and are never reached (R25). -/
def microStep (w : Word16) (s : State) : Result :=
  match microEvent w s.ph.toNat with
  | some e => .next { emit e s with ph := nextPhase s.ph }
  | none => .refused .phaseOutOfRange

/-- The sequencer's share of a clock edge for the frame `w`: its micro-step while a refresh is in progress (R145);
between refreshes nothing moves (R152). -/
def sendFrame (w : Word16) (s : State) : Result :=
  if s.ph = 0 then .next s else microStep w s

/-- A command has its effect only while the port is ready; presented while `PH != 0`, nothing of it happens (R171). -/
def whenReady (s : State) (r : Result) : Result :=
  if s.ph = 0 then r else .next s

/-- Reset (R220, R35): every register of TFD takes its reset value; the table, the receiver, the trace and what has been
seen stay (R198, R220). No line rises, so the receiver takes no edge. -/
def applyReset (s : State) : State :=
  { s with
    db := #v[0xFF, 0xFF, 0xFF, 0xFF]
    bcd := 0
    cur := 3
    txw := 0
    ph := 0
    sda := false
    sck := false
    lat := false }

/-- What the host puts on the ports at the next edge; after the listed inputs it presents nothing (log entry 3). -/
def State.nextInput (s : State) : PortIn := s.inputs.headD PortIn.idle

/-- The next edge's inputs have been used. -/
def State.popInput (s : State) : State := { s with inputs := s.inputs.tail }

end Sys2Proof.Machine
end

