-- ==== Sys2Proof/Machine/HostPort.lean ====
section
/-! DEFINITION. The command of the host-port family, `NOP` (spec/43_host_port.md R172). -/

namespace Sys2Proof.Machine

/-- `NOP` (R172): reads nothing, writes nothing, appends nothing to the trace. -/
def execNop (s : State) : Result := whenReady s (.next s)

end Sys2Proof.Machine
end

