-- ==== Sys2Proof/Machine/Refresh.lean ====
section
/-! DEFINITION. The refresh driver: the commands `REFRESH` (spec/42_refresh_driver.md R146) and `TICK` (R147), and the
four transmission words as the sequencer sends them (spec/30_encoding.md R79, spec/42_refresh_driver.md R144). A frame's
meaning is its share of ONE clock edge: the micro-step `PH` of its 51 (log entry 5). -/

namespace Sys2Proof.Machine

/-- `REFRESH i` (R146): build the word of digit `i` and start sending it; `CUR` is neither read nor written. -/
def execRefresh (i : Digit) (s : State) : Result :=
  whenReady s (.next (startRefresh i s))

/-- `TICK` (R147): advance the cursor, then build the word of the NEW digit and start sending it. -/
def execTick (s : State) : Result :=
  whenReady s (.next (startRefresh (s.cur + 1) (advanceCursor s)))

/-- `FRAME.D0` (R79, R144): the sequencer's micro-step of the frame of digit 0. -/
def execFrameD0 (seg : Byte) (s : State) : Result := sendFrame (frame 0 seg) s

/-- `FRAME.D1` (R79, R144): the sequencer's micro-step of the frame of digit 1. -/
def execFrameD1 (seg : Byte) (s : State) : Result := sendFrame (frame 1 seg) s

/-- `FRAME.D2` (R79, R144): the sequencer's micro-step of the frame of digit 2. -/
def execFrameD2 (seg : Byte) (s : State) : Result := sendFrame (frame 2 seg) s

/-- `FRAME.D3` (R79, R144): the sequencer's micro-step of the frame of digit 3. -/
def execFrameD3 (seg : Byte) (s : State) : Result := sendFrame (frame 3 seg) s

end Sys2Proof.Machine
end

