-- ==== Sys2Proof/Machine/Encoder.lean ====
section
/-! DEFINITION. The BCD encoder (spec/40_bcd_encoder.md R101, R105) and the command `ENCODE` (R104). -/

namespace Sys2Proof.Machine

/-- The correction of one result nibble (R101): `(n + 3) mod 16` if `n >= 5`, unsigned on 4 bits (R105 (c), (d)). -/
def correctNibble (n : Nibble) : Nibble := if 5 ≤ n.toNat then n + 3 else n

/-- The four result nibbles `SCR[31:16]`, each corrected within its own field (R101 (d)); `SCR[15:0]` is unchanged. -/
def correct (scr : Word32) : Word32 :=
  correctNibble (scr.extractLsb' 28 4) ++ correctNibble (scr.extractLsb' 24 4)
    ++ correctNibble (scr.extractLsb' 20 4) ++ correctNibble (scr.extractLsb' 16 4)
    ++ scr.extractLsb' 0 16

/-- One iteration: correct first, then shift the whole register left by one (R101 (a)). -/
def dabbleStep (scr : Word32) : Word32 := correct scr <<< 1

/-- `n` iterations. -/
def dabble : Nat → Word32 → Word32
  | 0, scr => scr
  | n + 1, scr => dabbleStep (dabble n scr)

/-- `encode_bcd(v)` (R101): 16 iterations from the value in the low half; the result is the upper half. -/
def encodeBcd (v : Word16) : Word16 := (dabble Config.nIter (v.zeroExtend 32)).extractLsb' 16 16

/-- `BCD <- b` (R104). -/
def setBcd (b : Word16) (s : State) : State := { s with bcd := b }

/-- `ENCODE v` (R104), with the precondition of R103 refused as spec/93 U1 says (log entry 4). -/
def execEncode (v : Word16) (s : State) : Result :=
  whenReady s
    (if exceedsMax v then .refused .encoderInputOutOfRange else .next (setBcd (encodeBcd v) s))

end Sys2Proof.Machine
end

