-- ==== Sys2Proof/Machine/Renderer.lean ====
section
/-! DEFINITION. The digit renderer (spec/41_digit_renderer.md R120 to R126) and the commands `RENDER.N` (R127) and
`RENDER.P` (R128). A lookup that has no entry (R61) makes `render` answer none; no operand reaches it. -/

namespace Sys2Proof.Machine

/-- One position of the scan (R122): the pattern of nibble `n`, and whether a digit has been shown, given whether one had
been shown before. -/
def scanPosition (t : SegTable) (n : Nibble) (shown : Bool) : Option (Byte × Bool) :=
  if n ≠ 0 ∨ shown = true then (lutRead t n.toNat).map (fun p => (p, true))
  else some (Config.blank, false)

/-- The in-range clause and the zero clause (R122, R123): positions 3, 2, 1, 0 of the packed BCD word `b`. -/
def renderDigits (t : SegTable) (b : Word16) : Option (Vector Byte 4) := do
  let (p3, shown3) ← scanPosition t (nibble b 3) false
  let (p2, shown2) ← scanPosition t (nibble b 2) shown3
  let (p1, shown1) ← scanPosition t (nibble b 1) shown2
  let (p0, shown0) ← scanPosition t (nibble b 0) shown1
  if shown0 then some #v[p0, p1, p2, p3]
  else (lutRead t 0).map (fun z => #v[z, p1, p2, p3])

/-- `render(t, m)` (R125): the overflow clause (R121) or the digits. The tag is never read (R125). -/
def render (t : SegTable) (d : DisplayedValue) : Option (Vector Byte 4) :=
  if exceedsMax d.m then (lutRead t Config.ovfIdx).map (fun o => #v[o, o, o, o])
  else renderDigits t (encodeBcd d.m)

/-- `p <- render(t, m); publish(p)` (R127, R128). -/
def renderAndPublish (d : DisplayedValue) (s : State) : Result :=
  match render s.segTable d with
  | some p => .next (publish p s)
  | none => .refused .lutIndexOutOfRange

/-- `RENDER.N v` (R127). -/
def execRenderN (v : Word16) (s : State) : Result :=
  whenReady s (renderAndPublish { percent := false, m := v } s)

/-- `RENDER.P p` (R128). -/
def execRenderP (p : Word16) (s : State) : Result :=
  whenReady s (renderAndPublish { percent := true, m := p } s)

end Sys2Proof.Machine
end

