-- ==== Sys2Proof/Machine/Dispatch.lean ====
section
/-! DEFINITION. The meaning of each instruction: its share of one clock edge. -/

namespace Sys2Proof.Machine

def exec (i : Instr) (s : State) : Host.Outcome State Fault Refusal :=
  match i with
  | .nop => Sys2Proof.Machine.execNop s
  | .encode v => Sys2Proof.Machine.execEncode v s
  | .renderN v => Sys2Proof.Machine.execRenderN v s
  | .renderP p => Sys2Proof.Machine.execRenderP p s
  | .tick => Sys2Proof.Machine.execTick s
  | .refresh d => Sys2Proof.Machine.execRefresh d s
  | .frameD0 seg => Sys2Proof.Machine.execFrameD0 seg s
  | .frameD1 seg => Sys2Proof.Machine.execFrameD1 seg s
  | .frameD2 seg => Sys2Proof.Machine.execFrameD2 seg s
  | .frameD3 seg => Sys2Proof.Machine.execFrameD3 seg s

end Sys2Proof.Machine
end

