-- ==== Sys2Proof/Machine/Edge.lean ====
section
/-! DEFINITION. What one rising edge of `clk` does (spec/60_exceptions.md R189): reset, else a micro-step, else the
acceptance of a command, else nothing. The two "instruction fetches" of the machine are the word in `TXW` while a
refresh is in progress and the word on port `cmd` while the port is ready. -/

namespace Sys2Proof.Machine

/-- The sequencer's edge (R145): the frame in `TXW` is the one being sent. A `TXW` that is none of the four frames is
never built (R85 (e)); R144 still gives its bits the same micro-steps. -/
def sequencerEdge (s : State) : Result :=
  match decodeFrame s.txw with
  | .ok i => exec i s
  | .error _ => microStep s.txw s

/-- The acceptance of the word `w` (R171): the command takes its whole effect at this edge; a reserved word has no
meaning (R85 (a)). -/
def acceptCommand (w : CmdWord) (s : State) : Result :=
  match decodeCommand w with
  | .ok i => exec i s
  | .error _ => .refused .reservedCommand

/-- The four cases of R189 in priority order, for the inputs `p` at this edge. -/
def clockEdge (p : PortIn) (s : State) : Result :=
  if p.rst then .next (applyReset s)
  else if s.busy then sequencerEdge s
  else if p.cmdValid then acceptCommand p.cmd s
  else .next s

/-- What it takes for the next edge to run the CMD20 word `w` (log entry 6): the port is ready and the host presents it. -/
def presentCommand (s : State) (w : CmdWord) : State :=
  { s with ph := 0, inputs := PortIn.present w :: s.inputs.tail }

/-- What it takes for the next edge to run the FRAME16 word `w` (log entry 6): it is the word in `TXW`, its first
micro-step is next, and the host does not reset the block. -/
def placeFrame (s : State) (w : Word16) : State :=
  { s with txw := w, ph := 1, inputs := PortIn.idle :: s.inputs.tail }

end Sys2Proof.Machine
end

