-- ==== Sys2Proof/Machine/Step.lean ====
section
/-! DEFINITION. One step of the machine: one rising edge of `clk` (spec/60_exceptions.md R189), on the inputs the host has
listed for it. -/

namespace Sys2Proof.Machine

/-- One clock edge: the inputs of this edge are used up, then R189. -/
def step (s : State) : Host.Outcome State Fault Refusal := clockEdge s.nextInput s.popInput

/-- `s` with the table word `w` placed where the next step takes its instruction from: a FRAME16 word in `TXW`, a CMD20
word on the command port (log entry 6). -/
def State.withFetchWord (s : State) (nbits w : Nat) : State :=
  if nbits ≤ 16 then placeFrame s (BitVec.ofNat 16 w) else presentCommand s (BitVec.ofNat 20 w)

end Sys2Proof.Machine
end

