-- ==== Sys2Proof/Machine/OpLevel.lean ====
section
/-! DEFINITION. The operation level of spec/00_scope.md R6: a command as one atomic transition that, for `REFRESH` and
`TICK`, appends the whole event sequence `trace(TXW)` (spec/42_refresh_driver.md R149) and leaves the receiver as one
complete refresh leaves it (R151). The step is the clock level; this is the form claims compare it with. -/

namespace Sys2Proof.Machine

/-- The three events of bit `15 - j` (R142). -/
def bitEvents (w : Word16) (j : Nat) : List Event :=
  [.pin .sda (txBit w j), .pin .sck true, .pin .sck false]

/-- `trace(W)` (R149): sixteen bits, most-significant first, then the latch pulse. -/
def traceOf (w : Word16) : List Event :=
  (List.range 16).flatMap (bitEvents w) ++ [.pin .lat true, .nop, .pin .lat false]

/-- One complete transfer of the frame `w` (R149, R151, R152): the trace gets `trace(w)`, the receiver ends with
`SR = OUT = w`, the lines end at `w[0]`, 0, 0 and the sequencer is idle. -/
def completeTransfer (w : Word16) (s : State) : State :=
  { s with
    sda := w.getLsbD 0
    sck := false
    lat := false
    ph := 0
    sr := w
    out := w
    seen := seenAfterLatch w s.seen
    trace := s.trace ++ traceOf w }

/-- An accepted command at the operation level (R6): its own transition, and the whole transfer if it started one. -/
def opCommand (w : CmdWord) (s : State) : Result :=
  match acceptCommand w s with
  | .next t => .next (if t.busy then completeTransfer t.txw t else t)
  | .fault f => .fault f
  | .refused r => .refused r

/-- A command stream at the operation level. -/
def opRun : List CmdWord → State → Result
  | [], s => .next s
  | w :: ws, s =>
    match opCommand w s with
    | .next t => opRun ws t
    | .fault f => .fault f
    | .refused r => .refused r

end Sys2Proof.Machine
end

