-- ==== Sys2Proof/Machine/Asm.lean ====
section
/-! DEFINITION. The assembler notation (spec/30_encoding.md R87, R88) as abstract lines, and the host of R87 that presents
each word and holds it until it is accepted, as a list of port inputs. -/

namespace Sys2Proof.Machine

/-- A line of a command stream: the six commands with numeric operands (R87) and the pseudo-operations (R88). -/
inductive AsmLine where
  | nop
  | encode (v : Nat)
  | renderN (v : Nat)
  | renderP (p : Nat)
  | tick
  | refresh (i : Nat)
  | showNumber (v : Nat)
  | showPercent (p : Nat)
  | frame
  | wait (n : Nat)
deriving DecidableEq, Repr

/-- The operand is in its range (R87). -/
def AsmLine.inRange : AsmLine → Bool
  | .nop => true
  | .encode v => decide (v < 65536)
  | .renderN v => decide (v < 65536)
  | .renderP p => decide (p < 65536)
  | .tick => true
  | .refresh i => decide (i < 4)
  | .showNumber v => decide (v < 65536)
  | .showPercent p => decide (p < 65536)
  | .frame => true
  | .wait _ => true

/-- The commands a line stands for (R88). -/
def AsmLine.expand : AsmLine → List Instr
  | .nop => [.nop]
  | .encode v => [.encode (BitVec.ofNat 16 v)]
  | .renderN v => [.renderN (BitVec.ofNat 16 v)]
  | .renderP p => [.renderP (BitVec.ofNat 16 p)]
  | .tick => [.tick]
  | .refresh i => [.refresh (BitVec.ofNat 2 i)]
  | .showNumber v => [.renderN (BitVec.ofNat 16 v)]
  | .showPercent p => [.renderP (BitVec.ofNat 16 p)]
  | .frame => [.tick, .tick, .tick, .tick]
  | .wait n => List.replicate n .nop

/-- The command word of an instruction, if it is a command. -/
def commandWord (i : Instr) : Option CmdWord :=
  match encode i with
  | .cmd w => some w
  | .frame _ => none

/-- The words of a line; none if an operand is out of range. -/
def AsmLine.assemble (l : AsmLine) : Option (List CmdWord) :=
  if l.inRange then some (l.expand.filterMap commandWord) else none

/-- The edges a command keeps the port closed after its acceptance (R145, R231). -/
def busyEdges (w : CmdWord) : Nat :=
  match decodeCommand w with
  | .ok .tick => Config.lastStep
  | .ok (.refresh _) => Config.lastStep
  | _ => 0

/-- What the host presents while it waits to give the rest `ws` of its stream: the next word, held (R87, R171). -/
def waiting : List CmdWord → PortIn
  | [] => PortIn.idle
  | w :: _ => PortIn.present w

/-- The port inputs of a host that presents each word and holds it until it is accepted (R87), from an idle block to the
end of the last refresh it starts. -/
def holdStream : List CmdWord → List PortIn
  | [] => []
  | w :: ws => PortIn.present w :: (List.replicate (busyEdges w) (waiting ws) ++ holdStream ws)

end Sys2Proof.Machine
end

