-- ==== Sys2Proof/Machine/Display.lean ====
section
/-! DEFINITION. What an observer reads off the display: the glyph of a pattern (spec/30_encoding.md R89), the active
position and the lit segments of the receiver's outputs (spec/60_exceptions.md R199, R200), and a whole buffer read left
to right (R51, spec/41_digit_renderer.md R129). -/

namespace Sys2Proof.Machine

/-- What a pattern shows (R89). -/
inductive Glyph where
  | space
  | digit (n : Fin 10)
  | overflow
deriving DecidableEq, Repr

/-- `glyph(p)` (R89): none for a pattern the renderer never writes. -/
def glyph (t : SegTable) (p : Byte) : Option Glyph :=
  if p = Config.blank then some .space
  else
    match (List.finRange 10).find? (fun n => t[n.val]'(Nat.lt_succ_of_lt n.isLt) = p) with
    | some n => some (.digit n)
    | none => if p = t[10] then some .overflow else none

/-- The eight segments of a position (R73), A to G and the dot H. -/
inductive Segment where
  | a | b | c | d | e | f | g | h
deriving DecidableEq, Repr

/-- The bit of a SEG8 byte that drives a segment (R73). -/
def Segment.bit : Segment → Nat
  | .a => 7
  | .b => 6
  | .c => 5
  | .d => 4
  | .e => 3
  | .f => 2
  | .g => 1
  | .h => 0

/-- Position `i` is active exactly when `OUT[15 - i] = 1` (R199). -/
def active (out : Word16) (i : Digit) : Bool := out.getLsbD (15 - i.toNat)

/-- Position `i`'s segment `x` is lit: the position is active and the segment's bit is 0 (R199, R200). -/
def lit (out : Word16) (i : Digit) (x : Segment) : Bool := active out i && !out.getLsbD x.bit

/-- The glyphs of the four positions read left to right, index 3 first (R51). -/
def readLeftToRight (t : SegTable) (p : Vector Byte 4) : List (Option Glyph) :=
  [glyph t p[3], glyph t p[2], glyph t p[1], glyph t p[0]]

/-- The conventional decimal numeral of `m`, right-aligned in four places and padded on the left with spaces (R129 (a)). -/
def numeral (m : Nat) : List Glyph :=
  let digits := (Nat.digits 10 m).reverse
  let shown := if m = 0 then [0] else digits
  List.replicate (4 - shown.length) .space ++ shown.map (fun n => .digit (Fin.ofNat 10 n))

end Sys2Proof.Machine
end

