-- ==== Sys2Proof/Safety.lean ====
section
/-! DEFINITION. What counts as a safe run: the invariants of the machine, which every step keeps, and the obligations of
the host (spec/70_reset_and_hazards.md R226, R229, R233). -/

namespace Sys2Proof.Machine

/-- `PH` is one of its legal values 0 to 51 (R25). -/
abbrev State.PhaseLegal (s : State) : Prop := s.ph.toNat ≤ Config.lastStep

/-- The two clock lines are at the level the pulse in progress gives them (R144, R152): `SCK` is high exactly between
its micro-steps `3j+2` and `3j+3`, `LAT` exactly between micro-steps 49 and 51. -/
abbrev State.ClocksFollowPhase (s : State) : Prop :=
  s.sck = decide (3 ≤ s.ph.toNat ∧ s.ph.toNat ≤ 48 ∧ s.ph.toNat % 3 = 0) ∧
  s.lat = decide (s.ph.toNat = 50 ∨ s.ph.toNat = 51)

/-- While a refresh runs, the data line holds the bit written last: bit `15 - (PH - 2) / 3` once micro-step 1 is done;
between refreshes it holds `TXW[0]` (R142, R152). -/
abbrev State.DataFollowsPhase (s : State) : Prop :=
  (s.ph = 0 → s.sda = s.txw.getLsbD 0) ∧
  (2 ≤ s.ph.toNat → s.sda = txBit s.txw (min ((s.ph.toNat - 2) / 3) 15))

/-- The word in flight is the frame of some digit, built from the buffer as it still stands (R141, R58). -/
abbrev State.FrameInFlight (s : State) : Prop :=
  s.ph ≠ 0 → ∃ i : Digit, s.txw = frame i (dbsRead s i)

/-- Shift pulses that have risen when micro-step `p` is next. -/
def pulsesRisen (p : Nat) : Nat := min (p / 3) 16

/-- The receiver has taken exactly the bits sent so far, and the outputs hold the frame once it is latched (R151, R222). -/
abbrev State.ReceiverFollows (s : State) : Prop :=
  s.ph ≠ 0 →
    s.sr.toNat % 2 ^ pulsesRisen s.ph.toNat = s.txw.toNat / 2 ^ (16 - pulsesRisen s.ph.toNat) ∧
    (50 ≤ s.ph.toNat → s.out = s.txw)

/-- A pattern the renderer writes: blank or an entry of the table (R89). -/
abbrev Drawable (t : SegTable) (p : Byte) : Prop := p = Config.blank ∨ ∃ n : Fin 11, p = t[n]

/-- The buffer holds only patterns the renderer writes. -/
abbrev State.BufferDrawable (s : State) : Prop := ∀ i : Digit, Drawable s.segTable (dbsRead s i)

/-- A viewer has seen only patterns the renderer writes (R201). -/
abbrev State.SeenDrawable (s : State) : Prop :=
  ∀ (i : Fin 4) (p : Byte), s.seen[i] = some p → Drawable s.segTable p

/-- `BCD` holds four decimal digits (R85 (c), R102). -/
abbrev State.BcdDecimal (s : State) : Prop := ∀ k : Fin 4, (nibble s.bcd k.val).toNat ≤ 9

/-- The registers of TFD and the receiver are as a run from the reset state leaves them. -/
structure State.Inv (s : State) : Prop where
  phaseLegal : s.PhaseLegal
  clocks : s.ClocksFollowPhase
  data : s.DataFollowsPhase
  frame : s.FrameInFlight
  receiver : s.ReceiverFollows
  buffer : s.BufferDrawable
  seen : s.SeenDrawable
  bcd : s.BcdDecimal

/-- The command `i` is accepted at the next edge: no reset, the port ready, and the word presented decodes to `i` (R171,
R189 case 3). -/
abbrev State.Accepts (s : State) (i : Instr) : Prop :=
  s.nextInput.rst = false ∧ s.ph = 0 ∧ s.nextInput.cmdValid = true ∧ decodeCommand s.nextInput.cmd = .ok i

/-- The word on the port is one the host may issue (R229, R233): not reserved, and with a defined result. -/
def mayIssue (w : CmdWord) : Bool :=
  match decodeCommand w with
  | .ok i => i.wellFormed
  | .error _ => false

/-- The host keeps R229 and R233 at this edge. -/
def PortIn.obeys (p : PortIn) : Bool := !p.cmdValid || mayIssue p.cmd

/-- The host gives no reset at the next `n` edges. -/
def State.noResetFor (s : State) (n : Nat) : Bool := (s.inputs.take n).all (fun p => !p.rst)

/-- `PH = 0` and both clock lines low, as between refreshes (R152). -/
abbrev State.Quiet (s : State) : Prop := s.ph = 0 ∧ s.sck = false ∧ s.lat = false

/-- Edges between two `TICK`s presented on the port: `T_TICK` of R5 (b); the host owes `T_TICK >= 52` (R226). -/
abbrev tickPeriodAllowed (tTick : Nat) : Prop := Config.refreshEdges ≤ tTick

/-- The port inputs of one tick period: one `TICK`, then no command for the rest of the period (R226, R232). -/
def tickPeriod (tTick : Nat) : List PortIn :=
  PortIn.present (cmdWord 3 0 0) :: List.replicate (tTick - 1) PortIn.idle

end Sys2Proof.Machine
end

