-- ==== Sys2Proof/Certificates/Slice0/Obligations.lean ====
section
/-! DEFINITION. The statements for the provers, in the order of OBLIGATIONS.json. Where a statement rests on a point the
spec marks as its own decision (`[decision: … D<n>]`), its docstring names the decision. -/

open Sys2Proof Sys2Proof.Machine

/- Encodings. -/

/-- R84: no operand bit of any instruction is dropped between encoding and decoding. -/
def Obligations.DecodeOfEncodeIsTheInstruction : Prop :=
  ∀ i : Instr, decode (encode i) = .ok i

/-- The other direction: a command word is the encoding of what it decodes to, up to the bits the command ignores, which
the assembler writes as zero (R82, R84; the spec's decision D5); a frame has no ignored bit. -/
def Obligations.EncodeOfDecodeClearsIgnoredBits : Prop :=
  (∀ (w : CmdWord) (i : Instr), decodeCommand w = .ok i →
    encode i = .cmd (w &&&
      match i with
      | .nop => 0xE0000
      | .encode _ => 0xEFFFF
      | .renderN _ => 0xFFFFF
      | .renderP _ => 0xFFFFF
      | .tick => 0xE0000
      | .refresh _ => 0xE0003
      | .frameD0 _ => 0
      | .frameD1 _ => 0
      | .frameD2 _ => 0
      | .frameD3 _ => 0)) ∧
  (∀ (w : Word16) (i : Instr), decodeFrame w = .ok i → encode i = .frame w)

/-- R83 (the spec's decision D4): the opcode map row by row, with the operand of each command, and the reserved words. -/
def Obligations.CommandWordsDecodeByTheOpcodeMap : Prop :=
  ∀ w : CmdWord,
    (w &&& 0xE0000 = 0x00000 → decodeCommand w = .ok .nop) ∧
    (w &&& 0xE0000 = 0x20000 → decodeCommand w = .ok (.encode (BitVec.ofNat 16 (w.toNat % 65536)))) ∧
    (w &&& 0xF0000 = 0x40000 → decodeCommand w = .ok (.renderN (BitVec.ofNat 16 (w.toNat % 65536)))) ∧
    (w &&& 0xF0000 = 0x50000 → decodeCommand w = .ok (.renderP (BitVec.ofNat 16 (w.toNat % 65536)))) ∧
    (w &&& 0xE0000 = 0x60000 → decodeCommand w = .ok .tick) ∧
    (w &&& 0xE0000 = 0x80000 → decodeCommand w = .ok (.refresh (BitVec.ofNat 2 (w.toNat % 4)))) ∧
    (0xA0000 ≤ w.toNat → decodeCommand w = .error (.reservedOpcode (BitVec.ofNat 3 (w.toNat / 131072))))

/-- R79, R85 (e): a 16-bit word is a frame exactly when its high byte is one of the four select bytes; its low byte is
the segment pattern. The select bytes of digits 1 to 3 are the spec's decision D12. -/
def Obligations.FrameWordsDecodeByTheirSelectByte : Prop :=
  ∀ w : Word16,
    (w.toNat / 256 = 0x80 → decodeFrame w = .ok (.frameD0 (BitVec.ofNat 8 w.toNat))) ∧
    (w.toNat / 256 = 0x40 → decodeFrame w = .ok (.frameD1 (BitVec.ofNat 8 w.toNat))) ∧
    (w.toNat / 256 = 0x20 → decodeFrame w = .ok (.frameD2 (BitVec.ofNat 8 w.toNat))) ∧
    (w.toNat / 256 = 0x10 → decodeFrame w = .ok (.frameD3 (BitVec.ofNat 8 w.toNat))) ∧
    (w.toNat / 256 ≠ 0x80 → w.toNat / 256 ≠ 0x40 → w.toNat / 256 ≠ 0x20 → w.toNat / 256 ≠ 0x10 →
      decodeFrame w = .error (.selectNotOneHot (BitVec.ofNat 8 (w.toNat / 256))))

/-- Words written out from the spec's encodings (R79, R83, spec/95 sections 2.3 and 2.4; the spec's decisions D4, D5, D6,
D12). That the number of bits tells the two formats apart is the model's choice (`decodeTableWord`, log entry 7). The
spec does not list the last word, 0x00FF; that it is no frame follows from R85 (e). -/
def Obligations.WrittenOutWordsDecode : Prop :=
  decodeTableWord 24 0b00011111111111111111 = some .nop ∧
  decodeTableWord 24 0b00110000010000000000 = some (.encode 1024) ∧
  decodeTableWord 24 0b01000000010000000000 = some (.renderN 1024) ∧
  decodeTableWord 24 0b01010000000000101010 = some (.renderP 42) ∧
  decodeTableWord 24 0b01111010101111001101 = some .tick ∧
  decodeTableWord 24 0b10011111111111111110 = some (.refresh 2) ∧
  decodeTableWord 24 0b10100000000000000000 = none ∧
  decodeTableWord 16 0b1000000010011001 = some (.frameD0 0x99) ∧
  decodeTableWord 16 0b0100000000100101 = some (.frameD1 0x25) ∧
  decodeTableWord 16 0b0010000000000011 = some (.frameD2 0x03) ∧
  decodeTableWord 16 0b0001000010011111 = some (.frameD3 0x9F) ∧
  decodeTableWord 16 0b0000000011111111 = none

/-- R87 (the spec's decision D7): the assembler's number for each command. -/
def Obligations.AssemblerNumbers : Prop :=
  (encode .nop).toNat = 0x00000 ∧
  (∀ v : Word16, (encode (.encode v)).toNat = 0x20000 + v.toNat) ∧
  (∀ v : Word16, (encode (.renderN v)).toNat = 0x40000 + v.toNat) ∧
  (∀ p : Word16, (encode (.renderP p)).toNat = 0x50000 + p.toNat) ∧
  (encode .tick).toNat = 0x60000 ∧
  (∀ i : Digit, (encode (.refresh i)).toNat = 0x80000 + i.toNat)

/-- R79 (select bits of digits 1 to 3: the spec's decision D12): the frame of digit `i` is `(0x8000 >> i) OR p`; its
halves are the select byte and the pattern, and the select byte names the digit back (R89). -/
def Obligations.FrameLayout : Prop :=
  ∀ (i : Digit) (p : Byte),
    frame i p = ((0x8000 : Word16) >>> i.toNat) ||| p.zeroExtend 16 ∧
    selField (frame i p) = sel i ∧ segField (frame i p) = p ∧ digitOf (sel i) = some i

/- Steps. -/

/-- R189 case 3, R171: a word presented while the port is ready runs as the instruction it decodes to, on the state with
this edge's inputs used up. The handshake is the spec's decision D3. -/
def Obligations.StepRunsThePresentedCommand : Prop :=
  ∀ (s : State) (p : PortIn) (rest : List PortIn) (i : Instr),
    s.inputs = p :: rest → p.rst = false → s.ph = 0 → p.cmdValid = true → decodeCommand p.cmd = .ok i →
    step s = exec i { s with inputs := rest }

/-- R189 case 2, R145: while a refresh is in progress an edge without reset runs the frame in `TXW`, whatever is on the
command port. One micro-step per edge is the spec's decision D10; that the frame is what the step runs is the model's
choice, log entry 5. -/
def Obligations.StepRunsTheFrameInFlight : Prop :=
  ∀ (s : State) (i : Instr),
    s.nextInput.rst = false → s.ph ≠ 0 → decodeFrame s.txw = .ok i →
    step s = exec i { s with inputs := s.inputs.tail }

/-- R189 (the spec's decision D24): the remaining cases of an edge. Reset comes before everything and does not look at
the command port; an idle block with no command presented changes nothing; a busy one does not look at the port. -/
def Obligations.EdgePriorities : Prop :=
  ∀ (s : State) (p q : PortIn) (rest : List PortIn),
    (p.rst = true → q.rst = true → step { s with inputs := p :: rest } = step { s with inputs := q :: rest }) ∧
    (p.rst = false → s.ph = 0 → p.cmdValid = false →
      step { s with inputs := p :: rest } = .next { s with inputs := rest }) ∧
    (p.rst = false → q.rst = false → s.ph ≠ 0 →
      step { s with inputs := p :: rest } = step { s with inputs := q :: rest })

/-- R220, R35 (values: the spec's decision D11): an edge with `rst = 1` gives every register its reset value from any
state, whatever is on the port, and leaves the table, the receiver and the trace alone. That what has been seen stays is
the model's record of R201. -/
def Obligations.ResetEdge : Prop :=
  ∀ s : State, s.nextInput.rst = true →
    step s = .next
      { db := #v[0xFF, 0xFF, 0xFF, 0xFF], bcd := 0x0000, cur := 3, txw := 0x0000, ph := 0
        sda := false, sck := false, lat := false
        segTable := s.segTable, sr := s.sr, out := s.out, seen := s.seen, trace := s.trace
        inputs := s.inputs.tail }

/-- R35 (the spec's decision D11): the registers of the reset state, whatever the table, the receiver and the inputs;
`busy = 0`, `cmd_ready = 1`. -/
def Obligations.ResetStateValues : Prop :=
  ∀ (t : SegTable) (sr out : Word16) (ins : List PortIn),
    let s := State.afterReset t sr out ins
    (∀ i : Digit, dbsRead s i = 0xFF) ∧ s.bcd = 0 ∧ s.cur = 3 ∧ s.txw = 0 ∧ s.ph = 0 ∧
    s.ports = { cmdReady := true, busy := false, cur := 3, bcd := 0, sda := false, sck := false, lat := false }

/-- R85 (a), R233 (the spec's decision D6): a reserved word presented while the port is ready has no meaning. -/
def Obligations.ReservedWordIsRefused : Prop :=
  ∀ (s : State) (p : PortIn) (rest : List PortIn),
    s.inputs = p :: rest → p.rst = false → s.ph = 0 → p.cmdValid = true → 0xA0000 ≤ p.cmd.toNat →
    step s = .refused .reservedCommand

/-- R171 (the spec's decision D3): while `PH != 0` nothing of a command happens. -/
def Obligations.CommandsDoNothingWhileBusy : Prop :=
  ∀ (i : Instr) (s : State), i.isCommand = true → s.ph ≠ 0 → exec i s = .next s

/-- R189 case 4, R204 (decisions D3, D24): an idle block without commands keeps every register for any number of edges. -/
def Obligations.IdleEdgesChangeNothing : Prop :=
  ∀ (n : Nat) (s : State), s.ph = 0 → (∀ p ∈ s.inputs.take n, p.rst = false ∧ p.cmdValid = false) →
    Sys2Proof.core.run n s = .next { s with inputs := s.inputs.drop n }

/- The encoder. -/

/-- R100. -/
def Obligations.EncoderIsExactOnItsRange : Prop :=
  ∀ v : Word16, v.toNat ≤ 9999 →
    (nibble (encodeBcd v) 3).toNat * 1000 + (nibble (encodeBcd v) 2).toNat * 100
      + (nibble (encodeBcd v) 1).toNat * 10 + (nibble (encodeBcd v) 0).toNat = v.toNat ∧
    (∀ k : Fin 4, (nibble (encodeBcd v) k.val).toNat ≤ 9)

/-- R102 (the spec derives it from R101): (a) after `j` iterations the BCD field holds the top `j` bits of the value in
decimal, modulo 10000; (b) at every inspection every result nibble is a decimal digit, so a correction stays in its
nibble; (c) for a value up to 9999 no iteration shifts a 1 out of bit 31. -/
def Obligations.DoubleDabbleLoop : Prop :=
  ∀ (v : Word16) (j : Nat), j ≤ 16 →
    let scr := dabble j (v.zeroExtend 32)
    bcdValue (scr.extractLsb' 16 16) = (v.toNat / 2 ^ (16 - j)) % 10000 ∧
    (∀ k : Fin 4, (nibble (scr.extractLsb' 16 16) k.val).toNat ≤ 9) ∧
    (v.toNat ≤ 9999 → j < 16 → (correct scr).getLsbD 31 = false)

/-- R106 (the spec derives it from R101): the register after the correction and after the shift of each iteration for
`v = 243`. -/
def Obligations.EncoderRunOf243 : Prop :=
  (List.range 16).map (fun j => (correct (dabble j 0x000000F3), dabble (j + 1) 0x000000F3)) =
    [(0x000000F3, 0x000001E6), (0x000001E6, 0x000003CC), (0x000003CC, 0x00000798), (0x00000798, 0x00000F30),
     (0x00000F30, 0x00001E60), (0x00001E60, 0x00003CC0), (0x00003CC0, 0x00007980), (0x00007980, 0x0000F300),
     (0x0000F300, 0x0001E600), (0x0001E600, 0x0003CC00), (0x0003CC00, 0x00079800), (0x000A9800, 0x00153000),
     (0x00183000, 0x00306000), (0x00306000, 0x0060C000), (0x0090C000, 0x01218000), (0x01218000, 0x02430000)]

/-- R104 on its range: `ENCODE v` completes whenever the port is ready, puts the four decimal digits of `v` into `BCD`
and changes nothing else (the register: the spec's decisions D8, D9). -/
def Obligations.EncodeCompletes : Prop :=
  ∀ (v : Word16) (s : State), s.ph = 0 → v.toNat ≤ 9999 →
    ∃ b : Word16, exec (.encode v) s = .next { s with bcd := b } ∧
      (nibble b 3).toNat = v.toNat / 1000 ∧ (nibble b 2).toNat = v.toNat / 100 % 10 ∧
      (nibble b 1).toNat = v.toNat / 10 % 10 ∧ (nibble b 0).toNat = v.toNat % 10

/-- R103, spec/93 U1 (the spec's decision D19): `ENCODE v` with `v > 9999` has no meaning. -/
def Obligations.EncodeOutOfRangeIsRefused : Prop :=
  ∀ (v : Word16) (s : State), s.ph = 0 → 9999 < v.toNat →
    exec (.encode v) s = .refused .encoderInputOutOfRange

/- The renderer. -/

/-- R121: above 9999 every position is the overflow entry, independent of the exact value. -/
def Obligations.RenderOverflowClause : Prop :=
  ∀ (t : SegTable) (d : DisplayedValue), 9999 < d.m.toNat → render t d = some #v[t[10], t[10], t[10], t[10]]

/-- R122, R123: up to 9999, position `k` shows the digit of weight `10^k` if it or a more significant digit is not zero,
or if `k = 0`; every other position is blank (R76). Any table, any tag. -/
def Obligations.RenderInRangeClause : Prop :=
  ∀ (t : SegTable) (d : DisplayedValue), d.m.toNat ≤ 9999 →
    ∃ p : Vector Byte 4, render t d = some p ∧
      ∀ k : Fin 4, p[k] =
        if k.val = 0 ∨ 10 ^ k.val ≤ d.m.toNat then t[d.m.toNat / 10 ^ k.val % 10]'(by omega) else Config.blank

/-- R127: `RENDER.N v` completes for every operand whenever the port is ready, and writes the four entries of the buffer
that R121 to R123 give and nothing else (one-edge publish: the spec's decisions D8, D9, D26). -/
def Obligations.RenderNumberCompletes : Prop :=
  ∀ (v : Word16) (s : State), s.ph = 0 →
    ∃ p : Vector Byte 4, exec (.renderN v) s = .next { s with db := p } ∧
      ∀ k : Fin 4, p[k] =
        if 9999 < v.toNat then s.segTable[10]
        else if k.val = 0 ∨ 10 ^ k.val ≤ v.toNat then s.segTable[v.toNat / 10 ^ k.val % 10]'(by omega)
        else 0xFF

/-- R128 (the spec's decision D13: the tag changes nothing): `RENDER.P p` completes for every operand whenever the port
is ready and writes what the magnitude gives, also above 100. -/
def Obligations.RenderPercentCompletes : Prop :=
  ∀ (p : Word16) (s : State), s.ph = 0 →
    ∃ q : Vector Byte 4, exec (.renderP p) s = .next { s with db := q } ∧
      exec (.renderN p) s = .next { s with db := q } ∧
      ∀ k : Fin 4, q[k] =
        if 9999 < p.toNat then s.segTable[10]
        else if k.val = 0 ∨ 10 ^ k.val ≤ p.toNat then s.segTable[p.toNat / 10 ^ k.val % 10]'(by omega)
        else 0xFF

/-- R129 (a): with any legal table the buffer reads, left to right, as the decimal numeral of the value, right-aligned,
without leading zeros; above 9999 as four overflow glyphs. Legality is R75. -/
def Obligations.RenderedBufferReadsAsDecimal : Prop :=
  ∀ (t : SegTable) (d : DisplayedValue), t.Legal →
    ∃ p : Vector Byte 4, render t d = some p ∧
      readLeftToRight t p =
        if d.m.toNat ≤ 9999 then (numeral d.m.toNat).map some else List.replicate 4 (some .overflow)

/-- R129 (b), (c): the number of positions that are not blank, with no gap among them, and position 0 among them. -/
def Obligations.RenderedPositionsAreContiguous : Prop :=
  ∀ (t : SegTable) (d : DisplayedValue), t.Legal →
    ∃ p : Vector Byte 4, render t d = some p ∧
      ∀ k : Fin 4, p[k] ≠ Config.blank ↔ (k.val = 0 ∨ 10 ^ k.val ≤ d.m.toNat)

/-- R58 (c), R126: of two `RENDER`s with nothing between them, each `RENDER.N` or `RENDER.P`, only the second leaves
anything behind; with one value twice it is R129 (d). -/
def Obligations.LastRenderWins : Prop :=
  ∀ (a b : Word16) (i j : Instr) (s t : State),
    (i = .renderN a ∨ i = .renderP a) → (j = .renderN b ∨ j = .renderP b) →
    exec i s = .next t → exec j t = exec j s

/- The refresh driver. -/

/-- R146 (phase register and cursor left alone: the spec's decisions D10, D21; select bits D12): `REFRESH i` completes
whenever the port is ready: it builds the word of digit `i`, makes the block busy, and changes nothing else. -/
def Obligations.RefreshCompletes : Prop :=
  ∀ (i : Digit) (s : State), s.ph = 0 →
    exec (.refresh i) s =
      .next { s with txw := ((0x8000 : Word16) >>> i.toNat) ||| (dbsRead s i).zeroExtend 16, ph := 1 }

/-- R147 (decisions D10, D12, D21, D29): `TICK` completes whenever the port is ready: the cursor advances by one modulo 4,
the word is that of the NEW digit, the block is busy, and nothing else changes. -/
def Obligations.TickCompletes : Prop :=
  ∀ s : State, s.ph = 0 →
    ∃ c : Digit, c.toNat = (s.cur.toNat + 1) % 4 ∧
      exec .tick s =
        .next { s with cur := c, txw := ((0x8000 : Word16) >>> c.toNat) ||| (dbsRead s c).zeroExtend 16, ph := 1 }

/-- R172 (the spec's decision D4): `NOP` completes from every state and changes nothing; presented on the port, any word
with `op = 0` cannot be told from no command. -/
def Obligations.NopCompletes : Prop :=
  (∀ s : State, exec .nop s = .next s) ∧
  (∀ (s : State) (w : CmdWord) (rest : List PortIn), w.toNat < 0x20000 →
    step { s with inputs := PortIn.present w :: rest } = step { s with inputs := PortIn.idle :: rest })

/-- R142, R143, R144 (one micro-step per edge: the spec's decision D10; select bits of digits 1 to 3: D12; the meaning of
a frame row: the model's choice, log entry 5): each of the four frames, at each of its 51 micro-steps, completes with
exactly the micro-step's event and the next phase. -/
def Obligations.FramesCompleteTheirMicroSteps : Prop :=
  ∀ (seg : Byte) (s : State) (i : Instr) (w : Word16),
    ((i = .frameD0 seg ∧ w.toNat = 0x8000 + seg.toNat) ∨ (i = .frameD1 seg ∧ w.toNat = 0x4000 + seg.toNat) ∨
     (i = .frameD2 seg ∧ w.toNat = 0x2000 + seg.toNat) ∨ (i = .frameD3 seg ∧ w.toNat = 0x1000 + seg.toNat)) →
    1 ≤ s.ph.toNat → s.ph.toNat ≤ 51 →
    exec i s = .next
      { emit
          (if s.ph.toNat = 51 then .pin .lat false
           else if s.ph.toNat = 50 then .nop
           else if s.ph.toNat = 49 then .pin .lat true
           else if s.ph.toNat % 3 = 1 then .pin .sda (w.getLsbD (15 - (s.ph.toNat - 1) / 3))
           else .pin .sck (decide (s.ph.toNat % 3 = 2))) s
        with ph := BitVec.ofNat 6 ((s.ph.toNat + 1) % 52) }

/-- The model's choice, log entry 5: a FRAME row of the table has a meaning on an edge, and with `PH = 0` that meaning
changes nothing. R152 says only that nothing moves between refreshes (levels: the spec's decision D23). -/
def Obligations.FramesDoNothingWhileIdle : Prop :=
  ∀ (seg : Byte) (s : State), s.ph = 0 →
    exec (.frameD0 seg) s = .next s ∧ exec (.frameD1 seg) s = .next s ∧
    exec (.frameD2 seg) s = .next s ∧ exec (.frameD3 seg) s = .next s

/-- R25, R145 (the spec's decisions D10, D24): `PH` goes through the micro-step program and nowhere else. From a legal
phase no edge stops for want of a micro-step; an edge with reset leaves 0; an edge without reset on a busy block always
completes, with the next phase, 0 after 51; an idle block goes to 1 exactly if it accepts a `TICK` or `REFRESH`. So `PH`
stays legal, and 52 to 63 are never reached. -/
def Obligations.PhaseAdvancesThroughTheProgram : Prop :=
  ∀ s : State, s.PhaseLegal →
    step s ≠ .refused .phaseOutOfRange ∧
    (s.nextInput.rst = true → ∃ t, step s = .next t ∧ t.ph = 0) ∧
    (s.nextInput.rst = false → s.ph ≠ 0 →
      ∃ t, step s = .next t ∧ t.ph.toNat = if s.ph.toNat = 51 then 0 else s.ph.toNat + 1) ∧
    (∀ t, s.nextInput.rst = false → s.ph = 0 → step s = .next t →
      (t.ph = 1 ∧ (s.Accepts .tick ∨ ∃ i, s.Accepts (.refresh i))) ∨
      (t.ph = 0 ∧ ¬ s.Accepts .tick ∧ ∀ i, ¬ s.Accepts (.refresh i))) ∧
    (∀ t, step s = .next t → t.PhaseLegal)

/-- `emit` (R8) and the receiver (R195 to R197, R205; edges: the spec's decisions D16, D30): an event is appended to the
trace, sets its line and no other, shifts the receiver exactly on a rising `SCK`, latches it exactly on a rising `LAT`,
and touches nothing else. -/
def Obligations.ReceiverTakesEdgesOnly : Prop :=
  ∀ (e : Event) (s : State),
    let t := emit e s
    t.trace = s.trace ++ [e] ∧
    t.sda = (match e with | .pin .sda l => l | _ => s.sda) ∧
    t.sck = (match e with | .pin .sck l => l | _ => s.sck) ∧
    t.lat = (match e with | .pin .lat l => l | _ => s.lat) ∧
    t.sr.toNat = (if e = .pin .sck true ∧ s.sck = false then s.sr.toNat * 2 % 65536 + s.sda.toNat else s.sr.toNat) ∧
    t.out = (if e = .pin .lat true ∧ s.lat = false then s.sr else s.out) ∧
    (¬ (e = .pin .lat true ∧ s.lat = false) → t.seen = s.seen) ∧
    t.db = s.db ∧ t.bcd = s.bcd ∧ t.cur = s.cur ∧ t.txw = s.txw ∧ t.ph = s.ph ∧
    t.segTable = s.segTable ∧ t.inputs = s.inputs

/-- R149 with R142, R143: from the first micro-step, 51 edges without reset append exactly the trace of the word in
`TXW`: for each bit from 15 down to 0 the data write, the rising and the falling shift clock, then the latch pulse. -/
def Obligations.TransferAppendsExactlyItsTrace : Prop :=
  ∀ s : State, s.ph = 1 → s.noResetFor 51 = true →
    ∃ t : State, Sys2Proof.core.run 51 s = .next t ∧ t.ph = 0 ∧
      t.trace = s.trace ++
        ((List.range 16).flatMap fun j =>
          [Event.pin .sda (s.txw.getLsbD (15 - j)), Event.pin .sck true, Event.pin .sck false])
        ++ [Event.pin .lat true, Event.nop, Event.pin .lat false]

/-- R151 (the spec derives it): whatever the receiver held, its shift stage is the word after micro-step 47, its outputs
keep the previous frame through micro-step 48 and are the word from micro-step 49 on; and R152: the state the complete
transfer leaves. -/
def Obligations.TransferFillsTheReceiver : Prop :=
  ∀ s : State, s.ph = 1 → s.sck = false → s.lat = false → s.noResetFor 51 = true →
    (∃ t, Sys2Proof.core.run 47 s = .next t ∧ t.sr = s.txw) ∧
    (∀ n : Nat, n ≤ 48 → ∃ t, Sys2Proof.core.run n s = .next t ∧ t.out = s.out) ∧
    (∃ t, Sys2Proof.core.run 49 s = .next t ∧ t.out = s.txw) ∧
    Sys2Proof.core.run 51 s = .next
      { s with ph := 0, sda := s.txw.getLsbD 0, sck := false, lat := false, sr := s.txw, out := s.txw
               seen := seenAfterLatch s.txw s.seen, trace := s.trace ++ traceOf s.txw
               inputs := s.inputs.drop 51 }

/-- R145, R231 (the spec's decision D10): a refresh accepted at an edge keeps the block busy for the 51 edges after it,
`PH` counting 1 to 51, and the block is idle after the 52nd, whatever the host presents meanwhile. -/
def Obligations.RefreshOccupiesFiftyTwoEdges : Prop :=
  ∀ (s : State) (p : PortIn) (rest : List PortIn), s.inputs = p :: rest → s.ph = 0 → s.noResetFor 52 = true →
    p.cmdValid = true → (decodeCommand p.cmd = .ok .tick ∨ ∃ i, decodeCommand p.cmd = .ok (.refresh i)) →
    (∀ n : Nat, 1 ≤ n → n ≤ 51 → ∃ t, Sys2Proof.core.run n s = .next t ∧ t.ph.toNat = n) ∧
    (∃ t, Sys2Proof.core.run 52 s = .next t ∧ t.ph = 0)

/-- R222 (the spec derives it from R220 and R151; decision D24): a reset during a refresh leaves the receiver with the
bits sent so far at the low end of `SR`, and `OUT` as it was, which is the whole word once the latch has risen. -/
def Obligations.ResetAbandonsTheTransfer : Prop :=
  ∀ s : State, s.Inv → s.ph ≠ 0 → s.nextInput.rst = true →
    ∃ t, step s = .next t ∧ t.ph = 0 ∧ t.sda = false ∧ t.sck = false ∧ t.lat = false ∧
      t.sr.toNat % 2 ^ pulsesRisen s.ph.toNat = s.txw.toNat / 2 ^ (16 - pulsesRisen s.ph.toNat) ∧
      t.out = s.out ∧ (50 ≤ s.ph.toNat → t.out = s.txw)

/-- R226 (decision D20): with a period of at least 52 clocks no `TICK` ever waits: one period takes the block from quiet
to quiet, one digit further, with that digit's frame on the outputs. -/
def Obligations.TickPeriodsAreSelfContained : Prop :=
  ∀ (n : Nat) (s : State) (rest : List PortIn), tickPeriodAllowed n → s.Quiet → s.inputs = tickPeriod n ++ rest →
    ∃ t, Sys2Proof.core.run n s = .next t ∧ t.Quiet ∧ t.inputs = rest ∧
      t.cur = s.cur + 1 ∧ t.out = frame (s.cur + 1) (dbsRead s (s.cur + 1)) ∧ t.db = s.db ∧ t.bcd = s.bcd

/-- R148, R201 (decision D31; derived by the spec): after four consecutive ticks the cursor is back, the four frames went
out in cyclic order, and every position shows its entry of the buffer, which is unchanged. -/
def Obligations.FourTicksShowTheWholeBuffer : Prop :=
  ∀ s : State, s.Quiet → s.inputs = holdStream [0x60000, 0x60000, 0x60000, 0x60000] →
    ∃ t, Sys2Proof.core.run s.inputs.length s = .next t ∧ t.cur = s.cur ∧ t.db = s.db ∧ t.Quiet ∧
      (∀ i : Digit, t.seen[i.toNat]'(i.isLt) = some (dbsRead s i)) ∧
      t.trace = s.trace ++ traceOf (frame (s.cur + 1) (dbsRead s (s.cur + 1)))
        ++ traceOf (frame (s.cur + 2) (dbsRead s (s.cur + 2)))
        ++ traceOf (frame (s.cur + 3) (dbsRead s (s.cur + 3))) ++ traceOf (frame s.cur (dbsRead s s.cur))

/-- R225 (derived by the spec from R147 and R35, decision D11): the first four frames after reset select the positions in
turn and are dark, for any table and any power-on contents of the receiver. -/
def Obligations.FirstFramesAfterResetAreDark : Prop :=
  ∀ (t : SegTable) (sr out : Word16),
    ∃ u, Sys2Proof.core.run 208 (State.afterReset t sr out (holdStream [0x60000, 0x60000, 0x60000, 0x60000])) = .next u ∧
      u.trace = traceOf 0x80FF ++ traceOf 0x40FF ++ traceOf 0x20FF ++ traceOf 0x10FF ∧ u.cur = 3 ∧
      (∀ (i : Digit) (x : Segment), lit u.out i x = false)

/-- R6: the two levels agree. A host that presents any stream of words and holds each until it is accepted (R87) takes
the clock-level machine, from a quiet state, exactly where the operation level takes it, refusals and trace included. -/
def Obligations.ClockLevelRefinesOperationLevel : Prop :=
  ∀ (ws : List CmdWord) (s : State), s.Quiet → s.inputs = holdStream ws →
    Sys2Proof.core.run (holdStream ws).length s = opRun ws { s with inputs := [] }

/- Invariants and whole-machine rules. -/

/-- Every step keeps the invariant: legal phase, lines as the pulse in progress puts them, the frame in flight built from
the buffer, the receiver holding the bits sent so far, only drawable patterns in the buffer and before the viewer, and
decimal digits in `BCD` (R25, R61, R85, R102, R142, R144, R151, R152). -/
def Obligations.StepKeepsInvariant : Prop :=
  ∀ s s' : State, s.Inv → step s = .next s' → s'.Inv

/-- The reset state has the invariant, whatever the table, the receiver and the inputs. -/
def Obligations.ResetStateHasInvariant : Prop :=
  State.reset.Inv ∧ ∀ (t : SegTable) (sr out : Word16) (ins : List PortIn), (State.afterReset t sr out ins).Inv

/-- R185, R229, R233: under a host that keeps its two obligations no step ever stops. -/
def Obligations.ObedientHostIsNeverRefused : Prop :=
  ∀ s : State, s.Inv → s.nextInput.obeys = true → ∃ s', step s = .next s'

/-- The converse of the former: from a state with the invariant a step stops only at a word the host must not issue, and
the refusal says which kind: a reserved word (R85 (a); the spec's decision D6) or `ENCODE` above 9999 (R103; D19). -/
def Obligations.StopsOnlyAtForbiddenWords : Prop :=
  ∀ (s : State) (r : Refusal), s.Inv → step s = .refused r →
    s.ph = 0 ∧ s.nextInput.rst = false ∧ s.nextInput.cmdValid = true ∧ mayIssue s.nextInput.cmd = false ∧
    ((r = .reservedCommand ∧ ∃ e, decodeCommand s.nextInput.cmd = .error e) ∨
     (r = .encoderInputOutOfRange ∧ ∃ v, decodeCommand s.nextInput.cmd = .ok (.encode v) ∧ 9999 < v.toNat))

/-- R30, R75 (b): the segment table is immutable. -/
def Obligations.SegmentTableIsImmutable : Prop :=
  ∀ s s' : State, step s = .next s' → s'.segTable = s.segTable

/-- R34, R171: who writes what. Without reset, the buffer changes only when a `RENDER` is accepted, `BCD` only when an
`ENCODE` is, the cursor only when a `TICK` is, `TXW` only when a `TICK` or `REFRESH` is, `PH` only when one of these two is
or while the sequencer runs; the lines, the receiver and the trace change only while the sequencer runs. -/
def Obligations.WhoWritesWhat : Prop :=
  ∀ s s' : State, step s = .next s' → s.nextInput.rst = false →
    (s'.db ≠ s.db → ∃ v, s.Accepts (.renderN v) ∨ s.Accepts (.renderP v)) ∧
    (s'.bcd ≠ s.bcd → ∃ v, s.Accepts (.encode v)) ∧
    (s'.cur ≠ s.cur → s.Accepts .tick) ∧
    (s'.txw ≠ s.txw → s.Accepts .tick ∨ ∃ i, s.Accepts (.refresh i)) ∧
    (s'.ph ≠ s.ph → s.ph ≠ 0 ∨ s.Accepts .tick ∨ ∃ i, s.Accepts (.refresh i)) ∧
    (s.ph = 0 → s'.sda = s.sda ∧ s'.sck = s.sck ∧ s'.lat = s.lat ∧ s'.sr = s.sr ∧ s'.out = s.out ∧
      s'.seen = s.seen ∧ s'.trace = s.trace)

/-- R26, R205, R142, R143: a micro-step appends one event, writes the line it names with its level and no other line (none
at the no-operation); a clock line driven high was low before, one driven low was high, the other clock line is low; the
receiver holds the word when the latch rises and shows it when the latch falls. Edges: the spec's decision D16. -/
def Obligations.EveryPulseIsAnEdge : Prop :=
  ∀ s s' : State, s.Inv → s.ph ≠ 0 → s.nextInput.rst = false → step s = .next s' →
    ∃ e : Event, s'.trace = s.trace ++ [e] ∧
      s'.sda = (match e with | .pin .sda l => l | _ => s.sda) ∧
      s'.sck = (match e with | .pin .sck l => l | _ => s.sck) ∧
      s'.lat = (match e with | .pin .lat l => l | _ => s.lat) ∧
      (e = .pin .sck true → s.sck = false ∧ s'.lat = false) ∧
      (e = .pin .sck false → s.sck = true ∧ s'.lat = false) ∧
      (e = .pin .lat true → s.lat = false ∧ s'.sr = s.txw ∧ s'.sck = false) ∧
      (e = .pin .lat false → s.lat = true ∧ s'.out = s.txw ∧ s'.sck = false)

/- The display. -/

/-- R78, R199, R200 (select bits D12, `lit` D31): in a frame exactly the selected position is active, bits 11 to 8 are 0,
and there a segment is lit exactly when its bit of the pattern is low. -/
def Obligations.FrameLightsOnePosition : Prop :=
  ∀ (i j : Digit) (p : Byte) (x : Segment),
    (active (frame i p) j = true ↔ j = i) ∧ (frame i p).extractLsb' 8 4 = 0 ∧
    (lit (frame i p) j x = true ↔ j = i ∧ p.getLsbD x.bit = false)

/-- R89, with any legal table (R75): blank reads as a space, entry `n` as the digit `n`, entry 10 as overflow, and any
other pattern as nothing the renderer writes. -/
def Obligations.GlyphInvertsTheTable : Prop :=
  ∀ t : SegTable, t.Legal →
    glyph t 0xFF = some .space ∧
    (∀ n : Fin 10, glyph t (t[n.val]'(by omega)) = some (.digit n)) ∧
    glyph t t[10] = some .overflow ∧
    (∀ p : Byte, ¬ Drawable t p → glyph t p = none)

/-- R74, R75: the eleven bytes of the default table, and that they meet the constraints. The shapes are the spec's
general knowledge (log entry 1). -/
def Obligations.DefaultTableIsLegal : Prop :=
  Config.defaultSegTable.toList = [0x03, 0x9F, 0x25, 0x0D, 0x99, 0x49, 0x41, 0x1F, 0x01, 0x09, 0x08] ∧
  Config.defaultSegTable.Legal

/-- R170, R27 (decisions D3, D25): the ports show the registers, and ready is the complement of busy. -/
def Obligations.PortsShowRegisters : Prop :=
  ∀ s : State, (s.ports.busy = true ↔ s.ph ≠ 0) ∧ (s.ports.cmdReady = true ↔ s.ph = 0) ∧
    s.ports.cur = s.cur ∧ s.ports.bcd = s.bcd ∧ s.ports.sda = s.sda ∧ s.ports.sck = s.sck ∧ s.ports.lat = s.lat

/-- R88 (decision D7): the pseudo-operations expand to the commands the spec lists. -/
def Obligations.PseudoOperationsExpand : Prop :=
  (∀ v : Nat, (AsmLine.showNumber v).expand = (AsmLine.renderN v).expand) ∧
  (∀ p : Nat, (AsmLine.showPercent p).expand = (AsmLine.renderP p).expand) ∧
  AsmLine.frame.expand = [.tick, .tick, .tick, .tick] ∧
  (∀ n : Nat, (AsmLine.wait n).expand = List.replicate n .nop)
end

