-- ==== Sys2Proof/Laws/Decode.lean ====
section
/-! SUPPORT. The fields of a word as numbers, and the fields of a word put together. -/

namespace Sys2Proof

/-- Concatenation as a number (R7). -/
theorem toNat_append_eq {n m : Nat} (x : BitVec n) (y : BitVec m) : (x ++ y).toNat = x.toNat * 2 ^ m + y.toNat := by
  rw [BitVec.toNat_append, ← Nat.shiftLeft_add_eq_or_of_lt y.isLt, Nat.shiftLeft_eq]

theorem toNat_cmdWord (op : BitVec 3) (t : BitVec 1) (arg : Word16) :
    (cmdWord op t arg).toNat = op.toNat * 131072 + t.toNat * 65536 + arg.toNat := by
  refine (toNat_append_eq (op ++ t) arg).trans ?_
  rw [toNat_append_eq]; omega

theorem toNat_frameOf (sel seg : Byte) : (frameOf sel seg).toNat = sel.toNat * 256 + seg.toNat :=
  toNat_append_eq sel seg

theorem toNat_opField (w : CmdWord) : (opField w).toNat = w.toNat / 131072 := by
  have := w.isLt
  simp [opField, BitVec.extractLsb'_toNat, Nat.shiftRight_eq_div_pow]; omega

theorem toNat_argField (w : CmdWord) : (argField w).toNat = w.toNat % 65536 := by
  simp [argField, BitVec.extractLsb'_toNat]

theorem toNat_digitField (w : CmdWord) : (digitField w).toNat = w.toNat % 4 := by
  simp [digitField, BitVec.extractLsb'_toNat]

theorem tField_eq (w : CmdWord) : tField w = decide (w.toNat / 65536 % 2 = 1) := by
  simp [tField, BitVec.getLsbD, Nat.testBit, Nat.shiftRight_eq_div_pow]
  rfl

theorem toNat_selField (w : Word16) : (selField w).toNat = w.toNat / 256 := by
  have := w.isLt
  simp [selField, BitVec.extractLsb'_toNat, Nat.shiftRight_eq_div_pow]; omega

theorem toNat_segField (w : Word16) : (segField w).toNat = w.toNat % 256 := by
  simp [segField, BitVec.extractLsb'_toNat]

@[simp] theorem opField_cmdWord (op : BitVec 3) (t : BitVec 1) (arg : Word16) : opField (cmdWord op t arg) = op := by
  apply BitVec.eq_of_toNat_eq; rw [toNat_opField, toNat_cmdWord]
  have := t.isLt; have := arg.isLt; omega

@[simp] theorem argField_cmdWord (op : BitVec 3) (t : BitVec 1) (arg : Word16) : argField (cmdWord op t arg) = arg := by
  apply BitVec.eq_of_toNat_eq; rw [toNat_argField, toNat_cmdWord]
  have := arg.isLt; omega

@[simp] theorem tField_cmdWord (op : BitVec 3) (t : BitVec 1) (arg : Word16) : tField (cmdWord op t arg) = decide (t = 1) := by
  rw [tField_eq, toNat_cmdWord]
  have h1 := t.isLt; have := arg.isLt
  have h2 : (t = 1) ↔ t.toNat = 1 := by rw [← BitVec.toNat_inj]; rfl
  rw [decide_eq_decide, h2]; omega

@[simp] theorem selField_frameOf (sel seg : Byte) : selField (frameOf sel seg) = sel := by
  apply BitVec.eq_of_toNat_eq; rw [toNat_selField, toNat_frameOf]
  have := seg.isLt; omega

@[simp] theorem segField_frameOf (sel seg : Byte) : segField (frameOf sel seg) = seg := by
  apply BitVec.eq_of_toNat_eq; rw [toNat_segField, toNat_frameOf]
  have := seg.isLt; omega

/-- The select byte of each digit (R78). -/
@[simp] theorem digitOf_sel (i : Digit) : digitOf (Machine.sel i) = some i := by
  revert i; decide

end Sys2Proof
end

