-- ==== Sys2Proof/Laws/Encoder.lean ====
section
/-! SUPPORT. One iteration of the encoder, in numbers: the register as four decimal digits and a low half. -/

namespace Sys2Proof.Machine

/-- The encoder's register as its four result nibbles and its low half. -/
def packScr (d3 d2 d1 d0 x : Nat) : Nat := (((d3 * 16 + d2) * 16 + d1) * 16 + d0) * 65536 + x

/-- Nibble `k` of a word as a number (R7). -/
theorem toNat_nibble (w : Word16) (k : Nat) : (nibble w k).toNat = w.toNat / 16 ^ k % 16 := by
  simp [nibble, BitVec.extractLsb'_toNat, Nat.shiftRight_eq_div_pow, pow_mul]

/-- A decimal digit's correction stays in its nibble (R102 (b)). -/
theorem toNat_correctNibble {n : Nibble} (h : n.toNat ≤ 9) :
    (correctNibble n).toNat = n.toNat + 3 * (n.toNat / 5) := by
  revert n; decide

/-- The four corrections act on four disjoint fields (R101 (c)). -/
theorem toNat_correct (scr : Word32) : (correct scr).toNat =
    packScr (correctNibble (scr.extractLsb' 28 4)).toNat (correctNibble (scr.extractLsb' 24 4)).toNat
      (correctNibble (scr.extractLsb' 20 4)).toNat (correctNibble (scr.extractLsb' 16 4)).toNat
      (scr.toNat % 65536) := by
  refine (toNat_append_eq _ _).trans ?_
  rw [toNat_append_eq, toNat_append_eq, toNat_append_eq]
  simp [packScr, BitVec.extractLsb'_toNat]

/-- The correction on decimal digits. -/
theorem correct_pack {scr : Word32} {d3 d2 d1 d0 x : Nat} (h3 : d3 ≤ 9) (h2 : d2 ≤ 9) (h1 : d1 ≤ 9) (h0 : d0 ≤ 9)
    (hx : x < 65536) (h : scr.toNat = packScr d3 d2 d1 d0 x) :
    (correct scr).toNat =
      packScr (d3 + 3 * (d3 / 5)) (d2 + 3 * (d2 / 5)) (d1 + 3 * (d1 / 5)) (d0 + 3 * (d0 / 5)) x := by
  have field : ∀ k, (scr.extractLsb' k 4).toNat = scr.toNat / 2 ^ k % 16 := by
    intro k; simp [BitVec.extractLsb'_toNat, Nat.shiftRight_eq_div_pow]
  have e3 : (scr.extractLsb' 28 4).toNat = d3 := by rw [field, h]; simp only [packScr]; omega
  have e2 : (scr.extractLsb' 24 4).toNat = d2 := by rw [field, h]; simp only [packScr]; omega
  have e1 : (scr.extractLsb' 20 4).toNat = d1 := by rw [field, h]; simp only [packScr]; omega
  have e0 : (scr.extractLsb' 16 4).toNat = d0 := by rw [field, h]; simp only [packScr]; omega
  have ex : scr.toNat % 65536 = x := by rw [h]; simp only [packScr]; omega
  rw [toNat_correct, toNat_correctNibble (by omega), toNat_correctNibble (by omega), toNat_correctNibble (by omega),
    toNat_correctNibble (by omega), e3, e2, e1, e0, ex]

/-- One iteration is decimal doubling of the four result nibbles, the top bit of the low half entering the units (R102
(a)). -/
theorem dabbleStep_pack {scr : Word32} {d3 d2 d1 d0 x : Nat} (h3 : d3 ≤ 9) (h2 : d2 ≤ 9) (h1 : d1 ≤ 9) (h0 : d0 ≤ 9)
    (hx : x < 65536) (h : scr.toNat = packScr d3 d2 d1 d0 x) :
    (dabbleStep scr).toNat =
      packScr ((2 * d3 + d2 / 5) % 10) ((2 * d2 + d1 / 5) % 10) ((2 * d1 + d0 / 5) % 10)
        ((2 * d0 + x / 32768) % 10) (2 * x % 65536) := by
  have hc := correct_pack h3 h2 h1 h0 hx h
  have hs : (dabbleStep scr).toNat = (correct scr).toNat * 2 % 4294967296 := by
    simp [dabbleStep, BitVec.toNat_shiftLeft, Nat.shiftLeft_eq]
  rw [hs, hc]
  simp only [packScr]
  have c3 : d3 / 5 = 0 ∨ d3 / 5 = 1 := by omega
  have c2 : d2 / 5 = 0 ∨ d2 / 5 = 1 := by omega
  have c1 : d1 / 5 = 0 ∨ d1 / 5 = 1 := by omega
  have c0 : d0 / 5 = 0 ∨ d0 / 5 = 1 := by omega
  rcases c3 with c3 | c3 <;> rcases c2 with c2 | c2 <;> rcases c1 with c1 | c1 <;> rcases c0 with c0 | c0 <;>
    rw [c3, c2, c1, c0] <;> omega

end Sys2Proof.Machine
end

