-- ==== Sys2Proof/Laws/State.lean ====
section
/-! SUPPORT. One lemma per field for every named update of the state, so that no proof unfolds a record update. -/

namespace Sys2Proof.Machine

@[simp] theorem publish_db (p : Vector Byte 4) (s : State) : (publish p s).db = p := rfl
@[simp] theorem publish_bcd (p : Vector Byte 4) (s : State) : (publish p s).bcd = s.bcd := rfl
@[simp] theorem publish_cur (p : Vector Byte 4) (s : State) : (publish p s).cur = s.cur := rfl
@[simp] theorem publish_txw (p : Vector Byte 4) (s : State) : (publish p s).txw = s.txw := rfl
@[simp] theorem publish_ph (p : Vector Byte 4) (s : State) : (publish p s).ph = s.ph := rfl
@[simp] theorem publish_sda (p : Vector Byte 4) (s : State) : (publish p s).sda = s.sda := rfl
@[simp] theorem publish_sck (p : Vector Byte 4) (s : State) : (publish p s).sck = s.sck := rfl
@[simp] theorem publish_lat (p : Vector Byte 4) (s : State) : (publish p s).lat = s.lat := rfl
@[simp] theorem publish_segTable (p : Vector Byte 4) (s : State) : (publish p s).segTable = s.segTable := rfl
@[simp] theorem publish_sr (p : Vector Byte 4) (s : State) : (publish p s).sr = s.sr := rfl
@[simp] theorem publish_out (p : Vector Byte 4) (s : State) : (publish p s).out = s.out := rfl
@[simp] theorem publish_seen (p : Vector Byte 4) (s : State) : (publish p s).seen = s.seen := rfl
@[simp] theorem publish_trace (p : Vector Byte 4) (s : State) : (publish p s).trace = s.trace := rfl
@[simp] theorem publish_inputs (p : Vector Byte 4) (s : State) : (publish p s).inputs = s.inputs := rfl

@[simp] theorem build_db (i : Digit) (s : State) : (build i s).db = s.db := rfl
@[simp] theorem build_bcd (i : Digit) (s : State) : (build i s).bcd = s.bcd := rfl
@[simp] theorem build_cur (i : Digit) (s : State) : (build i s).cur = s.cur := rfl
@[simp] theorem build_txw (i : Digit) (s : State) : (build i s).txw = frame i (dbsRead s i) := rfl
@[simp] theorem build_ph (i : Digit) (s : State) : (build i s).ph = s.ph := rfl
@[simp] theorem build_sda (i : Digit) (s : State) : (build i s).sda = s.sda := rfl
@[simp] theorem build_sck (i : Digit) (s : State) : (build i s).sck = s.sck := rfl
@[simp] theorem build_lat (i : Digit) (s : State) : (build i s).lat = s.lat := rfl
@[simp] theorem build_segTable (i : Digit) (s : State) : (build i s).segTable = s.segTable := rfl
@[simp] theorem build_sr (i : Digit) (s : State) : (build i s).sr = s.sr := rfl
@[simp] theorem build_out (i : Digit) (s : State) : (build i s).out = s.out := rfl
@[simp] theorem build_seen (i : Digit) (s : State) : (build i s).seen = s.seen := rfl
@[simp] theorem build_trace (i : Digit) (s : State) : (build i s).trace = s.trace := rfl
@[simp] theorem build_inputs (i : Digit) (s : State) : (build i s).inputs = s.inputs := rfl

@[simp] theorem startRefresh_db (i : Digit) (s : State) : (startRefresh i s).db = s.db := rfl
@[simp] theorem startRefresh_bcd (i : Digit) (s : State) : (startRefresh i s).bcd = s.bcd := rfl
@[simp] theorem startRefresh_cur (i : Digit) (s : State) : (startRefresh i s).cur = s.cur := rfl
@[simp] theorem startRefresh_txw (i : Digit) (s : State) : (startRefresh i s).txw = frame i (dbsRead s i) := rfl
@[simp] theorem startRefresh_ph (i : Digit) (s : State) : (startRefresh i s).ph = 1 := rfl
@[simp] theorem startRefresh_sda (i : Digit) (s : State) : (startRefresh i s).sda = s.sda := rfl
@[simp] theorem startRefresh_sck (i : Digit) (s : State) : (startRefresh i s).sck = s.sck := rfl
@[simp] theorem startRefresh_lat (i : Digit) (s : State) : (startRefresh i s).lat = s.lat := rfl
@[simp] theorem startRefresh_segTable (i : Digit) (s : State) : (startRefresh i s).segTable = s.segTable := rfl
@[simp] theorem startRefresh_sr (i : Digit) (s : State) : (startRefresh i s).sr = s.sr := rfl
@[simp] theorem startRefresh_out (i : Digit) (s : State) : (startRefresh i s).out = s.out := rfl
@[simp] theorem startRefresh_seen (i : Digit) (s : State) : (startRefresh i s).seen = s.seen := rfl
@[simp] theorem startRefresh_trace (i : Digit) (s : State) : (startRefresh i s).trace = s.trace := rfl
@[simp] theorem startRefresh_inputs (i : Digit) (s : State) : (startRefresh i s).inputs = s.inputs := rfl

@[simp] theorem advanceCursor_db (s : State) : (advanceCursor s).db = s.db := rfl
@[simp] theorem advanceCursor_bcd (s : State) : (advanceCursor s).bcd = s.bcd := rfl
@[simp] theorem advanceCursor_cur (s : State) : (advanceCursor s).cur = s.cur + 1 := rfl
@[simp] theorem advanceCursor_txw (s : State) : (advanceCursor s).txw = s.txw := rfl
@[simp] theorem advanceCursor_ph (s : State) : (advanceCursor s).ph = s.ph := rfl
@[simp] theorem advanceCursor_sda (s : State) : (advanceCursor s).sda = s.sda := rfl
@[simp] theorem advanceCursor_sck (s : State) : (advanceCursor s).sck = s.sck := rfl
@[simp] theorem advanceCursor_lat (s : State) : (advanceCursor s).lat = s.lat := rfl
@[simp] theorem advanceCursor_segTable (s : State) : (advanceCursor s).segTable = s.segTable := rfl
@[simp] theorem advanceCursor_sr (s : State) : (advanceCursor s).sr = s.sr := rfl
@[simp] theorem advanceCursor_out (s : State) : (advanceCursor s).out = s.out := rfl
@[simp] theorem advanceCursor_seen (s : State) : (advanceCursor s).seen = s.seen := rfl
@[simp] theorem advanceCursor_trace (s : State) : (advanceCursor s).trace = s.trace := rfl
@[simp] theorem advanceCursor_inputs (s : State) : (advanceCursor s).inputs = s.inputs := rfl

@[simp] theorem setBcd_db (b : Word16) (s : State) : (setBcd b s).db = s.db := rfl
@[simp] theorem setBcd_bcd (b : Word16) (s : State) : (setBcd b s).bcd = b := rfl
@[simp] theorem setBcd_cur (b : Word16) (s : State) : (setBcd b s).cur = s.cur := rfl
@[simp] theorem setBcd_txw (b : Word16) (s : State) : (setBcd b s).txw = s.txw := rfl
@[simp] theorem setBcd_ph (b : Word16) (s : State) : (setBcd b s).ph = s.ph := rfl
@[simp] theorem setBcd_sda (b : Word16) (s : State) : (setBcd b s).sda = s.sda := rfl
@[simp] theorem setBcd_sck (b : Word16) (s : State) : (setBcd b s).sck = s.sck := rfl
@[simp] theorem setBcd_lat (b : Word16) (s : State) : (setBcd b s).lat = s.lat := rfl
@[simp] theorem setBcd_segTable (b : Word16) (s : State) : (setBcd b s).segTable = s.segTable := rfl
@[simp] theorem setBcd_sr (b : Word16) (s : State) : (setBcd b s).sr = s.sr := rfl
@[simp] theorem setBcd_out (b : Word16) (s : State) : (setBcd b s).out = s.out := rfl
@[simp] theorem setBcd_seen (b : Word16) (s : State) : (setBcd b s).seen = s.seen := rfl
@[simp] theorem setBcd_trace (b : Word16) (s : State) : (setBcd b s).trace = s.trace := rfl
@[simp] theorem setBcd_inputs (b : Word16) (s : State) : (setBcd b s).inputs = s.inputs := rfl

@[simp] theorem popInput_db (s : State) : (s.popInput).db = s.db := rfl
@[simp] theorem popInput_bcd (s : State) : (s.popInput).bcd = s.bcd := rfl
@[simp] theorem popInput_cur (s : State) : (s.popInput).cur = s.cur := rfl
@[simp] theorem popInput_txw (s : State) : (s.popInput).txw = s.txw := rfl
@[simp] theorem popInput_ph (s : State) : (s.popInput).ph = s.ph := rfl
@[simp] theorem popInput_sda (s : State) : (s.popInput).sda = s.sda := rfl
@[simp] theorem popInput_sck (s : State) : (s.popInput).sck = s.sck := rfl
@[simp] theorem popInput_lat (s : State) : (s.popInput).lat = s.lat := rfl
@[simp] theorem popInput_segTable (s : State) : (s.popInput).segTable = s.segTable := rfl
@[simp] theorem popInput_sr (s : State) : (s.popInput).sr = s.sr := rfl
@[simp] theorem popInput_out (s : State) : (s.popInput).out = s.out := rfl
@[simp] theorem popInput_seen (s : State) : (s.popInput).seen = s.seen := rfl
@[simp] theorem popInput_trace (s : State) : (s.popInput).trace = s.trace := rfl
@[simp] theorem popInput_inputs (s : State) : (s.popInput).inputs = s.inputs.tail := rfl

@[simp] theorem applyReset_db (s : State) : (applyReset s).db = #v[0xFF, 0xFF, 0xFF, 0xFF] := rfl
@[simp] theorem applyReset_bcd (s : State) : (applyReset s).bcd = 0 := rfl
@[simp] theorem applyReset_cur (s : State) : (applyReset s).cur = 3 := rfl
@[simp] theorem applyReset_txw (s : State) : (applyReset s).txw = 0 := rfl
@[simp] theorem applyReset_ph (s : State) : (applyReset s).ph = 0 := rfl
@[simp] theorem applyReset_sda (s : State) : (applyReset s).sda = false := rfl
@[simp] theorem applyReset_sck (s : State) : (applyReset s).sck = false := rfl
@[simp] theorem applyReset_lat (s : State) : (applyReset s).lat = false := rfl
@[simp] theorem applyReset_segTable (s : State) : (applyReset s).segTable = s.segTable := rfl
@[simp] theorem applyReset_sr (s : State) : (applyReset s).sr = s.sr := rfl
@[simp] theorem applyReset_out (s : State) : (applyReset s).out = s.out := rfl
@[simp] theorem applyReset_seen (s : State) : (applyReset s).seen = s.seen := rfl
@[simp] theorem applyReset_trace (s : State) : (applyReset s).trace = s.trace := rfl
@[simp] theorem applyReset_inputs (s : State) : (applyReset s).inputs = s.inputs := rfl

@[simp] theorem completeTransfer_db (w : Word16) (s : State) : (completeTransfer w s).db = s.db := rfl
@[simp] theorem completeTransfer_bcd (w : Word16) (s : State) : (completeTransfer w s).bcd = s.bcd := rfl
@[simp] theorem completeTransfer_cur (w : Word16) (s : State) : (completeTransfer w s).cur = s.cur := rfl
@[simp] theorem completeTransfer_txw (w : Word16) (s : State) : (completeTransfer w s).txw = s.txw := rfl
@[simp] theorem completeTransfer_ph (w : Word16) (s : State) : (completeTransfer w s).ph = 0 := rfl
@[simp] theorem completeTransfer_sda (w : Word16) (s : State) : (completeTransfer w s).sda = w.getLsbD 0 := rfl
@[simp] theorem completeTransfer_sck (w : Word16) (s : State) : (completeTransfer w s).sck = false := rfl
@[simp] theorem completeTransfer_lat (w : Word16) (s : State) : (completeTransfer w s).lat = false := rfl
@[simp] theorem completeTransfer_segTable (w : Word16) (s : State) : (completeTransfer w s).segTable = s.segTable := rfl
@[simp] theorem completeTransfer_sr (w : Word16) (s : State) : (completeTransfer w s).sr = w := rfl
@[simp] theorem completeTransfer_out (w : Word16) (s : State) : (completeTransfer w s).out = w := rfl
@[simp] theorem completeTransfer_seen (w : Word16) (s : State) : (completeTransfer w s).seen = seenAfterLatch w s.seen := rfl
@[simp] theorem completeTransfer_trace (w : Word16) (s : State) : (completeTransfer w s).trace = s.trace ++ traceOf w := rfl
@[simp] theorem completeTransfer_inputs (w : Word16) (s : State) : (completeTransfer w s).inputs = s.inputs := rfl

/-- The receiver touches only its own fields. -/
theorem receive_eq (e : Event) (s : State) :
    receive e s = { s with sr := (receive e s).sr, out := (receive e s).out, seen := (receive e s).seen } := by
  unfold receive; split
  · rfl
  · split <;> rfl

@[simp] theorem receive_db (e : Event) (s : State) : (receive e s).db = s.db := by rw [receive_eq]
@[simp] theorem receive_bcd (e : Event) (s : State) : (receive e s).bcd = s.bcd := by rw [receive_eq]
@[simp] theorem receive_cur (e : Event) (s : State) : (receive e s).cur = s.cur := by rw [receive_eq]
@[simp] theorem receive_txw (e : Event) (s : State) : (receive e s).txw = s.txw := by rw [receive_eq]
@[simp] theorem receive_ph (e : Event) (s : State) : (receive e s).ph = s.ph := by rw [receive_eq]
@[simp] theorem receive_sda (e : Event) (s : State) : (receive e s).sda = s.sda := by rw [receive_eq]
@[simp] theorem receive_sck (e : Event) (s : State) : (receive e s).sck = s.sck := by rw [receive_eq]
@[simp] theorem receive_lat (e : Event) (s : State) : (receive e s).lat = s.lat := by rw [receive_eq]
@[simp] theorem receive_segTable (e : Event) (s : State) : (receive e s).segTable = s.segTable := by rw [receive_eq]
@[simp] theorem receive_trace (e : Event) (s : State) : (receive e s).trace = s.trace := by rw [receive_eq]
@[simp] theorem receive_inputs (e : Event) (s : State) : (receive e s).inputs = s.inputs := by rw [receive_eq]

@[simp] theorem emit_db (e : Event) (s : State) : (emit e s).db = s.db := by
  rcases e with ⟨_ | _ | _, _⟩ | _ <;> simp [emit, drive]
@[simp] theorem emit_bcd (e : Event) (s : State) : (emit e s).bcd = s.bcd := by
  rcases e with ⟨_ | _ | _, _⟩ | _ <;> simp [emit, drive]
@[simp] theorem emit_cur (e : Event) (s : State) : (emit e s).cur = s.cur := by
  rcases e with ⟨_ | _ | _, _⟩ | _ <;> simp [emit, drive]
@[simp] theorem emit_txw (e : Event) (s : State) : (emit e s).txw = s.txw := by
  rcases e with ⟨_ | _ | _, _⟩ | _ <;> simp [emit, drive]
@[simp] theorem emit_ph (e : Event) (s : State) : (emit e s).ph = s.ph := by
  rcases e with ⟨_ | _ | _, _⟩ | _ <;> simp [emit, drive]
@[simp] theorem emit_segTable (e : Event) (s : State) : (emit e s).segTable = s.segTable := by
  rcases e with ⟨_ | _ | _, _⟩ | _ <;> simp [emit, drive]
@[simp] theorem emit_sr (e : Event) (s : State) : (emit e s).sr = (receive e s).sr := by
  rcases e with ⟨_ | _ | _, _⟩ | _ <;> simp [emit, drive]
@[simp] theorem emit_out (e : Event) (s : State) : (emit e s).out = (receive e s).out := by
  rcases e with ⟨_ | _ | _, _⟩ | _ <;> simp [emit, drive]
@[simp] theorem emit_seen (e : Event) (s : State) : (emit e s).seen = (receive e s).seen := by
  rcases e with ⟨_ | _ | _, _⟩ | _ <;> simp [emit, drive]
@[simp] theorem emit_trace (e : Event) (s : State) : (emit e s).trace = s.trace ++ [e] := by
  rcases e with ⟨_ | _ | _, _⟩ | _ <;> simp [emit, drive]
@[simp] theorem emit_inputs (e : Event) (s : State) : (emit e s).inputs = s.inputs := by
  rcases e with ⟨_ | _ | _, _⟩ | _ <;> simp [emit, drive]
@[simp] theorem emit_sda (e : Event) (s : State) :
    (emit e s).sda = (match e with | .pin .sda l => l | _ => s.sda) := by
  rcases e with ⟨_ | _ | _, _⟩ | _ <;> simp [emit, drive]
@[simp] theorem emit_sck (e : Event) (s : State) :
    (emit e s).sck = (match e with | .pin .sck l => l | _ => s.sck) := by
  rcases e with ⟨_ | _ | _, _⟩ | _ <;> simp [emit, drive]
@[simp] theorem emit_lat (e : Event) (s : State) :
    (emit e s).lat = (match e with | .pin .lat l => l | _ => s.lat) := by
  rcases e with ⟨_ | _ | _, _⟩ | _ <;> simp [emit, drive]

theorem receive_sr (e : Event) (s : State) :
    (receive e s).sr = if e = .pin .sck true ∧ s.sck = false then shiftIn s.sr s.sda else s.sr := by
  rcases e with ⟨_ | _ | _, _ | _⟩ | _ <;> cases h : s.sck <;> cases h' : s.lat <;> simp [receive, sckRises, latRises, h, h']

theorem receive_out (e : Event) (s : State) :
    (receive e s).out = if e = .pin .lat true ∧ s.lat = false then s.sr else s.out := by
  rcases e with ⟨_ | _ | _, _ | _⟩ | _ <;> cases h : s.sck <;> cases h' : s.lat <;> simp [receive, sckRises, latRises, h, h']

theorem receive_seen (e : Event) (s : State) :
    (receive e s).seen = if e = .pin .lat true ∧ s.lat = false then seenAfterLatch s.sr s.seen else s.seen := by
  rcases e with ⟨_ | _ | _, _ | _⟩ | _ <;> cases h : s.sck <;> cases h' : s.lat <;> simp [receive, sckRises, latRises, h, h']

/-- Reading the buffer depends on the buffer alone. -/
theorem dbsRead_congr {s t : State} (h : t.db = s.db) (i : Digit) : dbsRead t i = dbsRead s i := by
  simp [dbsRead, h]

end Sys2Proof.Machine
end

