-- ==== Sys2Proof/Laws/Ops.lean ====
section
/-! SUPPORT. What the shared operations, the sequencer's edge and the step can do, each said once. -/

namespace Sys2Proof.Machine

@[simp] theorem whenReady_of_idle {s : State} (h : s.ph = 0) (r : Result) : whenReady s r = r := by
  simp [whenReady, h]

@[simp] theorem whenReady_of_busy {s : State} (h : s.ph ≠ 0) (r : Result) : whenReady s r = .next s := if_neg h

@[simp] theorem sendFrame_of_idle {s : State} (h : s.ph = 0) (w : Word16) : sendFrame w s = .next s := by
  simp [sendFrame, h]

@[simp] theorem sendFrame_of_busy {s : State} (h : s.ph ≠ 0) (w : Word16) : sendFrame w s = microStep w s := if_neg h

@[simp] theorem busy_iff (s : State) : s.busy = true ↔ s.ph ≠ 0 := by simp [State.busy]

/-- Frames and words: a word is the frame of the digit its select byte names (R79, R89). -/
theorem frame_of_selField {w : Word16} {c : Byte} {i : Digit} (h : selField w = c)
    (hc : c = sel i) : frame i (segField w) = w := by
  apply BitVec.eq_of_toNat_eq
  rw [frame, toNat_frameOf, ← hc, ← h, toNat_selField, toNat_segField]
  omega

/-- Whatever is in `TXW`, the sequencer's edge is its micro-step (R144, R145). -/
theorem sequencerEdge_of_busy {s : State} (h : s.ph ≠ 0) : sequencerEdge s = microStep s.txw s := by
  unfold sequencerEdge decodeFrame
  by_cases h0 : selField s.txw = 0x80
  · simp only [if_pos h0, exec, execFrameD0, frame_of_selField (i := 0) h0 (by decide)]; exact sendFrame_of_busy h _
  by_cases h1 : selField s.txw = 0x40
  · simp only [if_neg h0, if_pos h1, exec, execFrameD1, frame_of_selField (i := 1) h1 (by decide)]
    exact sendFrame_of_busy h _
  by_cases h2 : selField s.txw = 0x20
  · simp only [if_neg h0, if_neg h1, if_pos h2, exec, execFrameD2, frame_of_selField (i := 2) h2 (by decide)]
    exact sendFrame_of_busy h _
  by_cases h3 : selField s.txw = 0x10
  · simp only [if_neg h0, if_neg h1, if_neg h2, if_pos h3, exec, execFrameD3,
      frame_of_selField (i := 3) h3 (by decide)]
    exact sendFrame_of_busy h _
  simp only [if_neg h0, if_neg h1, if_neg h2, if_neg h3]

/-- What a micro-step does if it answers a next state (R144). -/
theorem microStep_next {w : Word16} {s t : State} (h : microStep w s = .next t) :
    ∃ e, microEvent w s.ph.toNat = some e ∧ t = { emit e s with ph := nextPhase s.ph } := by
  unfold microStep at h
  split at h
  · rename_i e he; cases h; exact ⟨e, he, rfl⟩
  · cases h

/-- The only stop of a micro-step is a phase that has none (R25). -/
theorem microStep_eq {w : Word16} {s : State} {e : Event} (h : microEvent w s.ph.toNat = some e) :
    microStep w s = .next { emit e s with ph := nextPhase s.ph } := by
  simp [microStep, h]

/-- Every phase 1 to 51 has a micro-step (R144). -/
theorem microEvent_isSome {p : Nat} (w : Word16) (h1 : 1 ≤ p) (h2 : p ≤ 51) : ∃ e, microEvent w p = some e := by
  unfold microEvent
  split
  · split <;> exact ⟨_, rfl⟩
  · split
    · exact ⟨_, rfl⟩
    · split
      · exact ⟨_, rfl⟩
      · split
        · exact ⟨_, rfl⟩
        · omega

/-- Micro-steps 1, 4, …, 46 write the data line (R144). -/
theorem microEvent_sda {w : Word16} {p : Nat} (h1 : 1 ≤ p) (h2 : p ≤ 48) (h : p % 3 = 1) :
    microEvent w p = some (.pin .sda (txBit w ((p - 1) / 3))) := by
  have : (p - 1) % 3 = 0 := by omega
  simp [microEvent, h1, h2, this]

/-- Micro-steps 2, 5, …, 47 raise the shift clock (R144). -/
theorem microEvent_rise {w : Word16} {p : Nat} (h1 : 1 ≤ p) (h2 : p ≤ 48) (h : p % 3 = 2) :
    microEvent w p = some (.pin .sck true) := by
  have : (p - 1) % 3 = 1 := by omega
  simp [microEvent, h1, h2, this]

/-- Micro-steps 3, 6, …, 48 lower the shift clock (R144). -/
theorem microEvent_fall {w : Word16} {p : Nat} (h1 : 1 ≤ p) (h2 : p ≤ 48) (h : p % 3 = 0) :
    microEvent w p = some (.pin .sck false) := by
  have : (p - 1) % 3 = 2 := by omega
  simp [microEvent, h1, h2, this]

theorem microEvent_49 {w : Word16} : microEvent w 49 = some (.pin .lat true) := rfl
theorem microEvent_50 {w : Word16} : microEvent w 50 = some .nop := rfl
theorem microEvent_51 {w : Word16} : microEvent w 51 = some (.pin .lat false) := rfl

/-- A busy phase is at least 1. -/
theorem one_le_of_busy {s : State} (h : s.ph ≠ 0) : 1 ≤ s.ph.toNat := by bv_omega

/-- The next phase as a number (R144). -/
theorem toNat_nextPhase {ph : Phase} (h : ph.toNat ≤ 51) :
    (nextPhase ph).toNat = if ph.toNat = 51 then 0 else ph.toNat + 1 := by
  revert ph; decide

/-- Everything a step that answers a next state can be (R189). -/
theorem step_cases {s t : State} (h : step s = .next t) :
    (s.nextInput.rst = true ∧ t = applyReset s.popInput) ∨
    (s.nextInput.rst = false ∧ s.ph ≠ 0 ∧ microStep s.txw s.popInput = .next t) ∨
    (s.nextInput.rst = false ∧ s.ph = 0 ∧ s.nextInput.cmdValid = true ∧
      ∃ i, decodeCommand s.nextInput.cmd = .ok i ∧ exec i s.popInput = .next t) ∨
    (s.nextInput.rst = false ∧ s.ph = 0 ∧ s.nextInput.cmdValid = false ∧ t = s.popInput) := by
  unfold step clockEdge at h
  split at h
  · cases h; exact .inl ⟨‹_›, rfl⟩
  · rename_i hr
    have hr : s.nextInput.rst = false := by simpa using hr
    split at h
    · rename_i hb
      have hb : s.ph ≠ 0 := (busy_iff _).mp hb
      rw [sequencerEdge_of_busy (s := s.popInput) hb] at h
      exact .inr (.inl ⟨hr, hb, h⟩)
    · rename_i hb
      have hb : s.ph = 0 := by simpa [State.busy] using hb
      split at h
      · rename_i hv
        refine .inr (.inr (.inl ⟨hr, hb, hv, ?_⟩))
        unfold acceptCommand at h
        split at h
        · rename_i i hi; exact ⟨i, hi, h⟩
        · cases h
      · rename_i hv
        cases h
        exact .inr (.inr (.inr ⟨hr, hb, by simpa using hv, rfl⟩))

/-- What an accepted command does if it answers a next state, one case a command (R104, R127, R128, R146, R147, R172). -/
theorem exec_command_cases {i : Instr} {s t : State} (hc : i.isCommand = true) (hp : s.ph = 0)
    (h : exec i s = .next t) :
    (i = .nop ∧ t = s) ∨
    (∃ v, i = .encode v ∧ v.toNat ≤ Config.maxVal ∧ t = setBcd (encodeBcd v) s) ∨
    (∃ v p, i = .renderN v ∧ render s.segTable ⟨false, v⟩ = some p ∧ t = publish p s) ∨
    (∃ v p, i = .renderP v ∧ render s.segTable ⟨true, v⟩ = some p ∧ t = publish p s) ∨
    (i = .tick ∧ t = startRefresh (s.cur + 1) (advanceCursor s)) ∨
    (∃ d, i = .refresh d ∧ t = startRefresh d s) := by
  cases i with
  | nop => simp [exec, execNop, hp] at h; simp [h]
  | encode v =>
    simp only [exec, execEncode, whenReady_of_idle hp] at h
    split at h
    · cases h
    · rename_i hv
      cases h
      exact .inr (.inl ⟨v, rfl, by simpa [exceedsMax] using hv, rfl⟩)
  | renderN v =>
    simp only [exec, execRenderN, whenReady_of_idle hp, renderAndPublish] at h
    split at h
    · rename_i p hr; cases h; exact .inr (.inr (.inl ⟨v, p, rfl, hr, rfl⟩))
    · cases h
  | renderP v =>
    simp only [exec, execRenderP, whenReady_of_idle hp, renderAndPublish] at h
    split at h
    · rename_i p hr; cases h; exact .inr (.inr (.inr (.inl ⟨v, p, rfl, hr, rfl⟩)))
    · cases h
  | tick => simp [exec, execTick, hp] at h; simp [h]
  | refresh d => simp [exec, execRefresh, hp] at h; simp [h]
  | frameD0 | frameD1 | frameD2 | frameD3 => simp [Instr.isCommand] at hc

/-- The command decoder yields commands only (R83). -/
theorem isCommand_of_decode {w : CmdWord} {i : Instr} (h : decodeCommand w = .ok i) : i.isCommand = true := by
  unfold decodeCommand at h
  split at h <;> try cases h
  all_goals first | rfl | skip
  split <;> rfl

/-- Everything a refused step can be (R189): a micro-step without an event, a reserved word, or a refused command. -/
theorem step_refused_cases {s : State} {r : Refusal} (h : step s = .refused r) :
    s.nextInput.rst = false ∧
    ((s.ph ≠ 0 ∧ microStep s.txw s.popInput = .refused r) ∨
     (s.ph = 0 ∧ s.nextInput.cmdValid = true ∧ r = .reservedCommand ∧
       ∃ e, decodeCommand s.nextInput.cmd = .error e) ∨
     (∃ i, s.Accepts i ∧ exec i s.popInput = .refused r)) := by
  unfold step clockEdge at h
  split at h
  · cases h
  · rename_i hr
    have hr : s.nextInput.rst = false := by simpa using hr
    refine ⟨hr, ?_⟩
    split at h
    · rename_i hb
      have hb : s.ph ≠ 0 := (busy_iff _).mp hb
      rw [sequencerEdge_of_busy (s := s.popInput) hb] at h
      exact .inl ⟨hb, h⟩
    · rename_i hb
      have hb : s.ph = 0 := by simpa [State.busy] using hb
      split at h
      · rename_i hv
        unfold acceptCommand at h
        split at h
        · rename_i i hi; exact .inr (.inr ⟨i, ⟨hr, hb, hv, hi⟩, h⟩)
        · rename_i e he; cases h; exact .inr (.inl ⟨hb, hv, rfl, e, he⟩)
      · cases h

/-- The two refusals a command has on an idle block: `ENCODE` above 9999 (R103), and a table index out of range (R61). -/
theorem exec_command_refused {i : Instr} {s : State} {r : Refusal} (hc : i.isCommand = true) (hp : s.ph = 0)
    (h : exec i s = .refused r) :
    (r = .encoderInputOutOfRange ∧ ∃ v, i = .encode v ∧ Config.maxVal < v.toNat) ∨
    (r = .lutIndexOutOfRange ∧ ∃ d, render s.segTable d = none) := by
  cases i with
  | nop => simp [exec, execNop, hp] at h
  | encode v =>
    simp only [exec, execEncode, whenReady_of_idle hp] at h
    split at h
    · rename_i hv
      cases h
      exact .inl ⟨rfl, v, rfl, by simpa [exceedsMax] using hv⟩
    · cases h
  | renderN v =>
    simp only [exec, execRenderN, whenReady_of_idle hp, renderAndPublish] at h
    split at h
    · cases h
    · rename_i hn; cases h; exact .inr ⟨rfl, _, hn⟩
  | renderP v =>
    simp only [exec, execRenderP, whenReady_of_idle hp, renderAndPublish] at h
    split at h
    · cases h
    · rename_i hn; cases h; exact .inr ⟨rfl, _, hn⟩
  | tick => simp [exec, execTick, hp] at h
  | refresh d => simp [exec, execRefresh, hp] at h
  | frameD0 | frameD1 | frameD2 | frameD3 => simp [Instr.isCommand] at hc

end Sys2Proof.Machine
end

