-- ==== Sys2Proof/Laws/PerInstr.lean ====
section
/-! SUPPORT. Per instruction: its encoding lies in its row of the opcode table, `(word AND mask) = match` (R83, R79). -/

namespace Sys2Proof.Laws.InRow

/-- The encoded word of `i` matches the row of `i`. -/
def Statement (i : Instr) : Prop := (encode i).toNat &&& rowMask i = rowMatch i

/-- Masking off the low bits of a number below `2 ^ n`. -/
theorem and_high (x k n m : Nat) (hm : m = (2 ^ k - 1) * 2 ^ n) (hx : x < 2 ^ (n + k)) :
    x &&& m = x / 2 ^ n * 2 ^ n := by
  apply Nat.eq_of_testBit_eq
  intro i
  rw [hm, Nat.testBit_and, Nat.testBit_mul_two_pow, Nat.testBit_mul_two_pow, Nat.testBit_two_pow_sub_one,
    Nat.testBit_div_two_pow]
  by_cases h : n ≤ i
  · by_cases h2 : i - n < k
    · simp [h, h2, Nat.sub_add_cancel h]
    · have : x.testBit i = false := Nat.testBit_lt_two_pow (lt_of_lt_of_le hx (Nat.pow_le_pow_right (by omega) (by omega)))
      simp [h, h2, this, Nat.sub_add_cancel h]
  · simp [h]

theorem nop : Statement .nop := by unfold Statement; decide

theorem encode (v : Word16) : Statement (.encode v) := by
  have := v.isLt
  simp only [Statement, Sys2Proof.encode, Encoded.toNat, toNat_cmdWord, rowMask, rowMatch]
  rw [and_high _ 3 17 _ (by decide) (by simp; omega)]
  simp; omega

theorem renderN (v : Word16) : Statement (.renderN v) := by
  have := v.isLt
  simp only [Statement, Sys2Proof.encode, Encoded.toNat, toNat_cmdWord, rowMask, rowMatch]
  rw [and_high _ 4 16 _ (by decide) (by simp; omega)]
  simp; omega

theorem renderP (p : Word16) : Statement (.renderP p) := by
  have := p.isLt
  simp only [Statement, Sys2Proof.encode, Encoded.toNat, toNat_cmdWord, rowMask, rowMatch]
  rw [and_high _ 4 16 _ (by decide) (by simp; omega)]
  simp; omega

theorem tick : Statement .tick := by unfold Statement; decide

theorem refresh (i : Digit) : Statement (.refresh i) := by
  revert i; unfold Statement; decide

theorem frameD0 (seg : Byte) : Statement (.frameD0 seg) := by
  have := seg.isLt
  simp only [Statement, Sys2Proof.encode, Encoded.toNat, toNat_frameOf, rowMask, rowMatch]
  rw [and_high _ 8 8 _ (by decide) (by simp; omega)]
  simp; omega

theorem frameD1 (seg : Byte) : Statement (.frameD1 seg) := by
  have := seg.isLt
  simp only [Statement, Sys2Proof.encode, Encoded.toNat, toNat_frameOf, rowMask, rowMatch]
  rw [and_high _ 8 8 _ (by decide) (by simp; omega)]
  simp; omega

theorem frameD2 (seg : Byte) : Statement (.frameD2 seg) := by
  have := seg.isLt
  simp only [Statement, Sys2Proof.encode, Encoded.toNat, toNat_frameOf, rowMask, rowMatch]
  rw [and_high _ 8 8 _ (by decide) (by simp; omega)]
  simp; omega

theorem frameD3 (seg : Byte) : Statement (.frameD3 seg) := by
  have := seg.isLt
  simp only [Statement, Sys2Proof.encode, Encoded.toNat, toNat_frameOf, rowMask, rowMatch]
  rw [and_high _ 8 8 _ (by decide) (by simp; omega)]
  simp; omega

end Sys2Proof.Laws.InRow
end

