-- ==== Sys2Proof/Laws/Run.lean ====
section
/-! SUPPORT. Runs of several edges: `Host.Core.run` of the machine, one step at a time. -/

namespace Sys2Proof.Machine

/-- A run whose first edge answers a next state goes on from it. -/
theorem run_of_step {s t : State} (h : step s = .next t) (n : Nat) :
    Sys2Proof.core.run (n + 1) s = Sys2Proof.core.run n t := by
  have h' : Sys2Proof.core.step s = .next t := h
  exact (Host.Core.run.eq_2 Sys2Proof.core s n).trans (by rw [h'])

/-- A run stops at the first refusal. -/
theorem run_of_refused {s : State} {r : Refusal} (h : step s = .refused r) (n : Nat) :
    Sys2Proof.core.run (n + 1) s = .refused r := by
  have h' : Sys2Proof.core.step s = .refused r := h
  exact (Host.Core.run.eq_2 Sys2Proof.core s n).trans (by rw [h'])

theorem run_zero (s : State) : Sys2Proof.core.run 0 s = .next s := rfl

/-- A run of `m + n` edges is a run of `m` edges and then one of `n`. -/
theorem run_add {s t : State} {m : Nat} (h : Sys2Proof.core.run m s = .next t) (n : Nat) :
    Sys2Proof.core.run (m + n) s = Sys2Proof.core.run n t := by
  induction m generalizing s with
  | zero => rw [run_zero] at h; cases h; rw [Nat.zero_add]
  | succ m ih =>
    rw [Nat.succ_add_eq_add_succ, Nat.add_succ]
    cases hs : step s with
    | next u => rw [run_of_step hs] at h ⊢; exact ih h
    | fault f => cases f
    | refused r => rw [run_of_refused hs] at h; cases h

/-- An edge without reset while a refresh is in progress is the micro-step of the word in `TXW` (R189 case 2). -/
theorem step_of_busy {s : State} (hr : s.nextInput.rst = false) (hp : s.ph ≠ 0) :
    step s = microStep s.txw s.popInput := by
  have hb : s.popInput.busy = true := (busy_iff _).2 hp
  simp only [step, clockEdge, hr, hb, if_true, Bool.false_eq_true, if_false]
  exact sequencerEdge_of_busy (s := s.popInput) hp

end Sys2Proof.Machine
end

