-- ==== Sys2Proof/Tests/Slice0.lean ====
section
/-! SUPPORT. The model's own tests: words written out from the encodings of spec/30_encoding.md, one step of each
instruction with results from spec/95_test_vectors.md and the rules' own examples, the smoke tests of the operand checks,
and for each statement with hypotheses a state and operands that meet them. -/

namespace Sys2Proof.Tests

open Sys2Proof.Machine

/-- The next state of a result, if there is one. -/
def nextOf : Result → Option State
  | .next s => some s
  | .fault _ => none
  | .refused _ => none

/-- The refusal of a result, if there is one. -/
def refusalOf : Result → Option Refusal
  | .next _ => none
  | .fault _ => none
  | .refused r => some r

/-- The buffer of spec/95 section 2.3: the number 1024 with the default table. -/
def showing1024 : State := { State.reset with db := #v[0x99, 0x25, 0x03, 0x9F] }

/-- Reset, then the command word `w` presented at the next edge. -/
def presented (w : Nat) : State := State.reset.withFetchWord 24 w

/-! Decoding: op, t, arg of each row of R83; sel, seg of each row of R79. -/

theorem test_decode_nop : decodeCommand 0b000_0_0000000000000000 = .ok .nop := by decide
theorem test_decode_nop_ignores : decodeCommand 0b000_1_1111111111111111 = .ok .nop := by decide
theorem test_decode_encode : decodeCommand 0b001_0_0000010000000000 = .ok (.encode 1024) := by decide
theorem test_decode_encode_ignores : decodeCommand 0b001_1_0000010000000000 = .ok (.encode 1024) := by decide
theorem test_decode_renderN : decodeCommand 0b010_0_0010011100001111 = .ok (.renderN 9999) := by decide
theorem test_decode_renderP : decodeCommand 0b010_1_0000000001100100 = .ok (.renderP 100) := by decide
theorem test_decode_tick : decodeCommand 0b011_1_1010101111001101 = .ok .tick := by decide
theorem test_decode_refresh : decodeCommand 0b100_1_1111111111111110 = .ok (.refresh 2) := by decide
theorem test_decode_op5_reserved : decodeCommand 0b101_0_0000000000000000 = .error (.reservedOpcode 5) := by decide
theorem test_decode_op7_reserved : decodeCommand 0b111_1_1111111111111111 = .error (.reservedOpcode 7) := by decide
theorem test_decode_frameD0 : decodeFrame 0b10000000_10011001 = .ok (.frameD0 0x99) := by decide
theorem test_decode_frameD1 : decodeFrame 0b01000000_00100101 = .ok (.frameD1 0x25) := by decide
theorem test_decode_frameD2 : decodeFrame 0b00100000_00000011 = .ok (.frameD2 0x03) := by decide
theorem test_decode_frameD3 : decodeFrame 0b00010000_00001000 = .ok (.frameD3 0x08) := by decide
theorem test_decode_two_selects : decodeFrame 0b11000000_00001000 = .error (.selectNotOneHot 0xC0) := by decide
theorem test_encode_words :
    [encode (.renderP 42), encode .tick, encode (.refresh 2)] = [.cmd 0x5002A, .cmd 0x60000, .cmd 0x80002] := by decide

/-! The operand checks. -/

theorem test_wellFormed_refuses_10000 : Instr.wellFormed (.encode 10000) = false := by decide
theorem test_wellFormed_takes_9999 : Instr.wellFormed (.encode 9999) = true := by decide
theorem test_inSourceType_refuses_101 : Instr.inSourceType (.renderP 101) = false := by decide
theorem test_isCommand_refuses_frame : Instr.isCommand (.frameD0 0) = false := by decide
theorem test_inRange_refuses_digit_4 : AsmLine.inRange (.refresh 4) = false := by decide
theorem test_assemble_frame : AsmLine.assemble .frame = some [0x60000, 0x60000, 0x60000, 0x60000] := by decide
theorem test_mayIssue_refuses_reserved : mayIssue 0xA0000 = false := by decide

/-! One step of each instruction. -/

theorem test_nop : nextOf (step (presented 0x1FFFF)) = some State.reset := by decide
theorem test_encode_1024 : (nextOf (step (presented 0x20400))).map (·.bcd) = some 0x1024 := by decide +kernel
theorem test_encode_8191 : (nextOf (step (presented 0x21FFF))).map (·.bcd) = some 0x8191 := by decide +kernel
theorem test_encode_10000_refused : refusalOf (step (presented 0x22710)) = some .encoderInputOutOfRange := by decide
theorem test_renderN_5005 :
    (nextOf (step (presented 0x4138D))).map (·.db) = some #v[0x49, 0x03, 0x03, 0x49] := by decide +kernel
theorem test_renderN_10000 :
    (nextOf (step (presented 0x42710))).map (·.db) = some #v[0x08, 0x08, 0x08, 0x08] := by decide
theorem test_renderP_100 :
    (nextOf (step (presented 0x50064))).map (·.db) = some #v[0x03, 0x03, 0x9F, 0xFF] := by decide +kernel
theorem test_renderP_0 :
    (nextOf (step (presented 0x50000))).map (·.db) = some #v[0x03, 0xFF, 0xFF, 0xFF] := by decide +kernel
theorem test_tick_wraps :
    (nextOf (exec .tick showing1024)).map (fun t => (t.cur, t.txw, t.ph)) = some (0, 0x8099, 1) := by decide
theorem test_tick_builds_new_digit :
    (nextOf (exec .tick { showing1024 with cur := 1 })).map (fun t => (t.cur, t.txw)) = some (2, 0x2003) := by decide
theorem test_refresh_3 :
    (nextOf (exec (.refresh 3) showing1024)).map (fun t => (t.cur, t.txw, t.ph)) = some (3, 0x109F, 1) := by decide
theorem test_refresh_1 : (nextOf (step (presented 0x80001))).map (·.txw) = some 0x40FF := by decide

/-- Micro-step 1 of 0x8099 writes bit 15, a 1, to the data line (spec/95 section 2.3). -/
theorem test_frameD0_first :
    (nextOf (step (State.reset.withFetchWord 16 0x8099))).map (fun t => (t.trace, t.sda, t.ph)) =
      some ([.pin .sda true], true, 2) := by decide
/-- The latch rises at micro-step 49 and the outputs change together (spec/95 section 2.5). -/
theorem test_frameD0_latch :
    (nextOf (exec (.frameD0 0x99) { State.reset with ph := 49, sr := 0x8099, out := 0x1234 })).map
      (fun t => (t.out, t.seen[0], t.lat, t.ph)) = some (0x8099, some 0x99, true, 50) := by decide
/-- Micro-step 4 of 0x4025 writes bit 14, a 1. -/
theorem test_frameD1_bit14 :
    (nextOf (exec (.frameD1 0x25) { State.reset with ph := 4 })).map (fun t => (t.sda, t.ph)) = some (true, 5) := by decide
/-- A rising shift clock takes the level of the data line: the first of the two bits 0, 1 of spec/95 section 2.5. -/
theorem test_frameD1_shift :
    (nextOf (exec (.frameD1 0x25) { State.reset with ph := 5, sda := true, sr := 0x0132 })).map (·.sr) =
      some 0x0265 := by decide
/-- Micro-step 46 of 0x2003 writes bit 0, a 1. -/
theorem test_frameD2_bit0 :
    (nextOf (exec (.frameD2 0x03) { State.reset with ph := 46 })).map (fun t => (t.sda, t.ph)) = some (true, 47) := by decide
/-- Micro-step 50 is the hold: no pin changes. -/
theorem test_frameD2_hold :
    (nextOf (exec (.frameD2 0x03) { State.reset with ph := 50, lat := true })).map (fun t => (t.trace, t.lat, t.ph)) =
      some ([.nop], true, 51) := by decide
/-- Micro-step 51 ends the refresh. -/
theorem test_frameD3_last :
    (nextOf (exec (.frameD3 0x08) { State.reset with ph := 51, lat := true })).map (fun t => (t.lat, t.ph)) =
      some (false, 0) := by decide
/-- Micro-step 48 is the last falling shift clock, which the receiver ignores. -/
theorem test_frameD3_fall :
    (nextOf (exec (.frameD3 0x08) { State.reset with ph := 48, sck := true, sr := 0x1008 })).map
      (fun t => (t.sck, t.sr, t.ph)) = some (false, 0x1008, 49) := by decide

/-- A command presented on a reset edge is not accepted (spec/95 section 2.6). -/
theorem test_reset_beats_command :
    nextOf (step { showing1024 with bcd := 7, inputs := [{ rst := true, cmdValid := true, cmd := 0x40007 }] }) =
      some State.reset := by decide
theorem test_reserved_refused : refusalOf (step (presented 0xA0000)) = some .reservedCommand := by decide

/-- `OUT = 0x8099` lights B, C, F, G of position 0 (spec/95 section 2.5). -/
theorem test_lit_8099 :
    ([Segment.a, .b, .c, .d, .e, .f, .g, .h].map (lit 0x8099 0), [Segment.a, .b, .c, .d, .e, .f, .g, .h].map (lit 0x8099 1)) =
      ([false, true, true, false, false, true, true, false], List.replicate 8 false) := by decide

/-! Witnesses: for each statement with hypotheses, concrete values that meet all of them together. -/

/-- A legal table other than the default: 6 without A, 7 with F, 9 without D (the other shapes R74 mentions). -/
def otherTable : SegTable := #v[0x03, 0x9F, 0x25, 0x0D, 0x99, 0x49, 0xC1, 0x1B, 0x01, 0x19, 0x18]

/-- RenderedBufferReadsAsDecimal, RenderedPositionsAreContiguous. -/
theorem witness_Legal : otherTable.Legal := by decide

/-- A refresh of the units digit, just accepted. -/
def inFlight : State := startRefresh 0 (State.afterReset otherTable 0x1234 0x5678 [])

/-- The same transfer after micro-step 2: one bit has been taken. -/
def afterFirstPulse : State :=
  { inFlight with ph := 3, sda := true, sck := true, sr := 0x2469, trace := [.pin .sda true, .pin .sck true] }

/-- The same transfer with the latch line high. -/
def latched : State :=
  { inFlight with ph := 50, sda := true, lat := true, sr := 0x80FF, out := 0x80FF, seen := #v[some 0xFF, none, none, none] }

/-- A state whose buffer is dark and whose viewer has seen nothing but darkness has the invariant if the rest of it,
which `decide` runs on, holds. -/
theorem dark_inv (s : State)
    (h : s.PhaseLegal ∧ s.ClocksFollowPhase ∧ s.DataFollowsPhase ∧ s.FrameInFlight ∧ s.ReceiverFollows ∧ s.BcdDecimal)
    (hb : ∀ i : Digit, dbsRead s i = Config.blank) (hs : ∀ i : Fin 4, s.seen[i] = none ∨ s.seen[i] = some Config.blank) :
    s.Inv where
  phaseLegal := h.1
  clocks := h.2.1
  data := h.2.2.1
  frame := h.2.2.2.1
  receiver := h.2.2.2.2.1
  buffer := fun i => .inl (hb i)
  seen := by
    intro i p hp
    rcases hs i with h | h <;> rw [h] at hp <;> cases hp
    exact .inl rfl
  bcd := h.2.2.2.2.2

theorem inFlight_inv : inFlight.Inv := dark_inv _ (by decide) (by decide) (by decide)
theorem afterFirstPulse_inv : afterFirstPulse.Inv := dark_inv _ (by decide) (by decide) (by decide)
theorem latched_inv : latched.Inv := dark_inv _ (by decide) (by decide) (by decide)

theorem witness_EncodeOfDecodeClearsIgnoredBits :
    decodeCommand 0x9FFFE = .ok (.refresh 2) ∧ decodeFrame 0x8099 = .ok (.frameD0 0x99) := by decide

theorem witness_CommandWordsDecodeByTheOpcodeMap :
    (0x1FFFF : CmdWord) &&& 0xE0000 = 0x00000 ∧ (0x3FFFF : CmdWord) &&& 0xE0000 = 0x20000 ∧
    (0x4FFFF : CmdWord) &&& 0xF0000 = 0x40000 ∧ (0x50000 : CmdWord) &&& 0xF0000 = 0x50000 ∧
    (0x7FFFF : CmdWord) &&& 0xE0000 = 0x60000 ∧ (0x9FFFF : CmdWord) &&& 0xE0000 = 0x80000 ∧
    0xA0000 ≤ (0xA0000 : CmdWord).toNat := by decide

theorem witness_FrameWordsDecodeByTheirSelectByte :
    (0x80FF : Word16).toNat / 256 = 0x80 ∧ (0x4000 : Word16).toNat / 256 = 0x40 ∧
    (0x20FF : Word16).toNat / 256 = 0x20 ∧ (0x1000 : Word16).toNat / 256 = 0x10 ∧
    ((0xC000 : Word16).toNat / 256 ≠ 0x80 ∧ (0xC000 : Word16).toNat / 256 ≠ 0x40 ∧
      (0xC000 : Word16).toNat / 256 ≠ 0x20 ∧ (0xC000 : Word16).toNat / 256 ≠ 0x10) := by decide

theorem witness_StepRunsThePresentedCommand :
    (presented 0x60000).inputs = PortIn.present 0x60000 :: [] ∧ (PortIn.present 0x60000).rst = false ∧
    (presented 0x60000).ph = 0 ∧ (PortIn.present 0x60000).cmdValid = true ∧
    decodeCommand (PortIn.present 0x60000).cmd = .ok .tick := by decide

theorem witness_StepRunsTheFrameInFlight :
    inFlight.nextInput.rst = false ∧ inFlight.ph ≠ 0 ∧ decodeFrame inFlight.txw = .ok (.frameD0 0xFF) := by decide

theorem witness_EdgePriorities :
    ({ rst := true, cmdValid := true, cmd := 0 } : PortIn).rst = true ∧ PortIn.idle.rst = false ∧
    (PortIn.present 0).rst = false ∧ State.reset.ph = 0 ∧ PortIn.idle.cmdValid = false ∧ inFlight.ph ≠ 0 := by decide

/-- An edge with reset during the transfer. -/
def resetAt (s : State) : State := { s with inputs := [{ rst := true, cmdValid := false, cmd := 0 }] }

theorem witness_ResetEdge : (resetAt inFlight).nextInput.rst = true := by decide

theorem witness_ReservedWordIsRefused :
    (presented 0xA0000).inputs = PortIn.present 0xA0000 :: [] ∧ (PortIn.present 0xA0000).rst = false ∧
    (presented 0xA0000).ph = 0 ∧ (PortIn.present 0xA0000).cmdValid = true ∧
    0xA0000 ≤ (PortIn.present 0xA0000).cmd.toNat := by decide

theorem witness_CommandsDoNothingWhileBusy : Instr.isCommand .tick = true ∧ inFlight.ph ≠ 0 := by decide

theorem witness_IdleEdgesChangeNothing :
    let s : State := { showing1024 with inputs := [PortIn.idle, PortIn.idle] }
    s.ph = 0 ∧ ∀ p ∈ s.inputs.take 3, p.rst = false ∧ p.cmdValid = false := by decide

theorem witness_EncoderIsExactOnItsRange : (9999 : Word16).toNat ≤ 9999 := by decide

theorem witness_DoubleDabbleLoop : 16 ≤ 16 ∧ ((9999 : Word16).toNat ≤ 9999 ∧ 15 < 16) := by decide

theorem witness_EncodeCompletes : State.reset.ph = 0 ∧ (9999 : Word16).toNat ≤ 9999 := by decide

theorem witness_EncodeOutOfRangeIsRefused : State.reset.ph = 0 ∧ 9999 < (10000 : Word16).toNat := by decide

theorem witness_RenderOverflowClause : 9999 < (DisplayedValue.mk false 10000).m.toNat := by decide

theorem witness_RenderInRangeClause : (DisplayedValue.mk true 9999).m.toNat ≤ 9999 := by decide

/-- RenderNumberCompletes, RenderPercentCompletes, RefreshCompletes, TickCompletes: the port is ready. -/
theorem witness_port_ready : showing1024.ph = 0 := by decide

/-- Each of the two as the first `RENDER`; the second has no hypothesis. -/
theorem witness_LastRenderWins :
    (∃ t, exec (.renderN 10000) showing1024 = .next t) ∧ ∃ t, exec (.renderP 10000) showing1024 = .next t :=
  ⟨⟨_, rfl⟩, _, rfl⟩

theorem witness_NopCompletes : (0x1FFFF : CmdWord).toNat < 0x20000 := by decide

theorem witness_FramesCompleteTheirMicroSteps :
    ((0x80FF : Word16).toNat = 0x8000 + (0xFF : Byte).toNat ∧ 1 ≤ inFlight.ph.toNat ∧ inFlight.ph.toNat ≤ 51) ∧
    ((0x4000 : Word16).toNat = 0x4000 + (0x00 : Byte).toNat ∧ 1 ≤ afterFirstPulse.ph.toNat ∧ afterFirstPulse.ph.toNat ≤ 51) ∧
    ((0x20FF : Word16).toNat = 0x2000 + (0xFF : Byte).toNat ∧ 1 ≤ latched.ph.toNat ∧ latched.ph.toNat ≤ 51) ∧
    ((0x1000 : Word16).toNat = 0x1000 + (0x00 : Byte).toNat ∧ 1 ≤ (51 : Phase).toNat ∧ (51 : Phase).toNat ≤ 51) := by decide

theorem witness_FramesDoNothingWhileIdle : showing1024.ph = 0 := by decide

/-- A reset edge, the last micro-step, an accepted `TICK` and an idle edge. -/
theorem witness_PhaseAdvancesThroughTheProgram :
    ((resetAt latched).PhaseLegal ∧ (resetAt latched).nextInput.rst = true) ∧
    (∃ s : State, s.PhaseLegal ∧ s.nextInput.rst = false ∧ s.ph = 51 ∧ ∃ t, step s = .next t ∧ t.ph = 0) ∧
    ((presented 0x60000).PhaseLegal ∧ (presented 0x60000).nextInput.rst = false ∧ (presented 0x60000).ph = 0 ∧
      ∃ t, step (presented 0x60000) = .next t ∧ t.ph = 1) ∧
    (State.reset.PhaseLegal ∧ State.reset.nextInput.rst = false ∧ State.reset.ph = 0 ∧
      ∃ t, step State.reset = .next t ∧ t.ph = 0) :=
  ⟨by decide, ⟨{ latched with ph := 51 }, by decide, by decide, by decide, _, rfl, by decide⟩,
    ⟨by decide, by decide, by decide, _, rfl, by decide⟩, ⟨by decide, by decide, by decide, _, rfl, by decide⟩⟩

theorem witness_ReceiverTakesEdgesOnly : ¬ (Event.nop = Event.pin .lat true ∧ State.reset.lat = false) := by decide

/-- TransferAppendsExactlyItsTrace, TransferFillsTheReceiver. -/
theorem witness_Transfer :
    inFlight.ph = 1 ∧ inFlight.sck = false ∧ inFlight.lat = false ∧ inFlight.noResetFor 51 = true ∧ 48 ≤ 48 := by decide

theorem witness_RefreshOccupiesFiftyTwoEdges :
    let s := presented 0x80001
    s.inputs = PortIn.present 0x80001 :: [] ∧ s.ph = 0 ∧ s.noResetFor 52 = true ∧ (PortIn.present 0x80001).cmdValid = true ∧
    decodeCommand (PortIn.present 0x80001).cmd = .ok (.refresh 1) ∧ (1 ≤ 51 ∧ 51 ≤ 51) := by decide

theorem witness_RefreshOccupiesFiftyTwoEdges_tick :
    let s := presented 0x60000
    s.inputs = PortIn.present 0x60000 :: [] ∧ s.ph = 0 ∧ s.noResetFor 52 = true ∧ (PortIn.present 0x60000).cmdValid = true ∧
    decodeCommand (PortIn.present 0x60000).cmd = .ok .tick := by decide

theorem witness_ResetAbandonsTheTransfer :
    (resetAt afterFirstPulse).Inv ∧ (resetAt afterFirstPulse).ph ≠ 0 ∧ (resetAt afterFirstPulse).nextInput.rst = true :=
  ⟨dark_inv _ (by decide) (by decide) (by decide), by decide, by decide⟩

theorem witness_ResetAbandonsTheTransfer_latched :
    (resetAt latched).Inv ∧ (resetAt latched).ph ≠ 0 ∧ (resetAt latched).nextInput.rst = true ∧
    50 ≤ (resetAt latched).ph.toNat :=
  ⟨dark_inv _ (by decide) (by decide) (by decide), by decide, by decide, by decide⟩

theorem witness_TickPeriodsAreSelfContained :
    let s : State := { showing1024 with inputs := tickPeriod 52 ++ [] }
    tickPeriodAllowed 52 ∧ s.Quiet ∧ s.inputs = tickPeriod 52 ++ [] := by decide

theorem witness_FourTicksShowTheWholeBuffer :
    let s : State := { showing1024 with inputs := holdStream [0x60000, 0x60000, 0x60000, 0x60000] }
    s.Quiet ∧ s.inputs = holdStream [0x60000, 0x60000, 0x60000, 0x60000] := ⟨by decide, rfl⟩

theorem witness_ClockLevelRefinesOperationLevel :
    let s : State := { showing1024 with inputs := holdStream [0x40007, 0x60000, 0xFFFFF] }
    s.Quiet ∧ s.inputs = holdStream [0x40007, 0x60000, 0xFFFFF] := ⟨by decide, rfl⟩

theorem witness_StepKeepsInvariant : inFlight.Inv ∧ ∃ s', step inFlight = .next s' := ⟨inFlight_inv, _, rfl⟩

theorem witness_ObedientHostIsNeverRefused : inFlight.Inv ∧ inFlight.nextInput.obeys = true := ⟨inFlight_inv, by decide⟩

/-- Idle, with a reserved word presented. -/
def misused : State :=
  { State.afterReset otherTable 0x1234 0x5678 [PortIn.present 0xFFFFF] with txw := 0x80FF, sda := true }

theorem witness_StopsOnlyAtForbiddenWords : misused.Inv ∧ step misused = .refused .reservedCommand :=
  ⟨dark_inv _ (by decide) (by decide) (by decide), rfl⟩

/-- The same with `ENCODE 10000`, the least operand without a result. -/
theorem witness_StopsOnlyAtForbiddenWords_encode :
    ({ misused with inputs := [PortIn.present 0x22710] } : State).Inv ∧
    step { misused with inputs := [PortIn.present 0x22710] } = .refused .encoderInputOutOfRange :=
  ⟨dark_inv _ (by decide) (by decide) (by decide), rfl⟩

theorem witness_SegmentTableIsImmutable : ∃ s', step inFlight = .next s' := ⟨_, rfl⟩

/-- A change of each register: `DB` by each `RENDER`, `BCD`, `CUR`, `TXW`, `PH` by a command and by a micro-step. -/
theorem witness_WhoWritesWhat :
    (∃ s', step (presented 0x42710) = .next s' ∧ s'.db ≠ (presented 0x42710).db) ∧
    (∃ s', step (presented 0x52710) = .next s' ∧ s'.db ≠ (presented 0x52710).db) ∧
    (∃ s', step (presented 0x20007) = .next s' ∧ s'.bcd ≠ (presented 0x20007).bcd) ∧
    (∃ s', step (presented 0x60000) = .next s' ∧ s'.cur ≠ (presented 0x60000).cur) ∧
    (∃ s', step (presented 0x80001) = .next s' ∧ s'.txw ≠ (presented 0x80001).txw ∧ s'.ph ≠ (presented 0x80001).ph) ∧
    (∃ s', step inFlight = .next s' ∧ s'.ph ≠ inFlight.ph) ∧
    (∀ w ∈ [0x42710, 0x52710, 0x20007, 0x60000, 0x80001], (presented w).nextInput.rst = false ∧ (presented w).ph = 0) ∧
    inFlight.nextInput.rst = false :=
  ⟨⟨_, rfl, by decide⟩, ⟨_, rfl, by decide⟩, ⟨_, rfl, by decide +kernel⟩, ⟨_, rfl, by decide⟩, ⟨_, rfl, by decide⟩,
    ⟨_, rfl, by decide⟩, by decide, by decide⟩

/-- The transfer before its first shift pulse, before the latch rises, and before it falls. -/
def beforePulse : State := { inFlight with ph := 2, sda := true }
def beforeLatch : State := { inFlight with ph := 49, sda := true, sr := 0x80FF }
def beforeFall : State := { latched with ph := 51 }

theorem witness_EveryPulseIsAnEdge :
    (afterFirstPulse.Inv ∧ afterFirstPulse.ph ≠ 0 ∧ afterFirstPulse.nextInput.rst = false ∧
      ∃ s', step afterFirstPulse = .next s') ∧
    (beforePulse.Inv ∧ beforePulse.ph ≠ 0 ∧ beforePulse.nextInput.rst = false ∧ ∃ s', step beforePulse = .next s') ∧
    (beforeLatch.Inv ∧ beforeLatch.ph ≠ 0 ∧ beforeLatch.nextInput.rst = false ∧ ∃ s', step beforeLatch = .next s') ∧
    (beforeFall.Inv ∧ beforeFall.ph ≠ 0 ∧ beforeFall.nextInput.rst = false ∧ ∃ s', step beforeFall = .next s') :=
  ⟨⟨afterFirstPulse_inv, by decide, by decide, _, rfl⟩,
    ⟨dark_inv _ (by decide) (by decide) (by decide), by decide, by decide, _, rfl⟩,
    ⟨dark_inv _ (by decide) (by decide) (by decide), by decide, by decide, _, rfl⟩,
    ⟨dark_inv _ (by decide) (by decide) (by decide), by decide, by decide, _, rfl⟩⟩

theorem witness_GlyphInvertsTheTable : otherTable.Legal ∧ ¬ Drawable otherTable 0x00 := by decide

end Sys2Proof.Tests
end

section
/-! SUPPORT. What one event and a whole transfer's events do to the bus and the receiver. -/

namespace Sys2Proof.Machine

/-- Shifting one bit in, as a number (R196). -/
theorem toNat_shiftIn (sr : Word16) (bit : Bool) : (shiftIn sr bit).toNat = sr.toNat * 2 % 65536 + bit.toNat := by
  have h : (sr.extractLsb' 0 15).toNat = sr.toNat % 32768 := by simp [BitVec.extractLsb'_toNat]
  have hb : (BitVec.ofBool bit).toNat = bit.toNat := by cases bit <;> rfl
  have happ : (shiftIn sr bit).toNat = (sr.extractLsb' 0 15).toNat * 2 ^ 1 + (BitVec.ofBool bit).toNat :=
    toNat_append_eq _ _
  omega

/-- Settles O34: `emit` field by field, from the rules for `emit` and `receive`. -/
theorem receiverTakesEdgesOnly : Obligations.ReceiverTakesEdgesOnly := by
  intro e s t
  have hsr : t.sr.toNat =
      if e = .pin .sck true ∧ s.sck = false then s.sr.toNat * 2 % 65536 + s.sda.toNat else s.sr.toNat := by
    rw [emit_sr, receive_sr, apply_ite BitVec.toNat, toNat_shiftIn]
  have hout : t.out = if e = .pin .lat true ∧ s.lat = false then s.sr else s.out :=
    (emit_out e s).trans (receive_out e s)
  have hseen (h : ¬ (e = .pin .lat true ∧ s.lat = false)) : t.seen = s.seen := by
    rw [emit_seen, receive_seen, if_neg h]
  exact ⟨emit_trace e s, emit_sda e s, emit_sck e s, emit_lat e s, hsr, hout, hseen, emit_db e s, emit_bcd e s,
    emit_cur e s, emit_txw e s, emit_ph e s, emit_segTable e s, emit_inputs e s⟩

/-- The events of a list, emitted in order. -/
def emitAll (es : List Event) (s : State) : State := es.foldl (fun t e => emit e t) s

@[simp] theorem emitAll_nil (s : State) : emitAll [] s = s := rfl

@[simp] theorem emitAll_cons (e : Event) (es : List Event) (s : State) :
    emitAll (e :: es) s = emitAll es (emit e s) := rfl

theorem emitAll_append (es fs : List Event) (s : State) : emitAll (es ++ fs) s = emitAll fs (emitAll es s) :=
  List.foldl_append

@[simp] theorem emitAll_trace (es : List Event) (s : State) : (emitAll es s).trace = s.trace ++ es := by
  induction es generalizing s with
  | nil => simp
  | cons e es ih => simp [ih]

@[simp] theorem emitAll_txw (es : List Event) (s : State) : (emitAll es s).txw = s.txw := by
  induction es generalizing s with
  | nil => rfl
  | cons e es ih => simp [ih]

/-- The bus neither reads nor writes the phase and the inputs (R8, R196, R197). -/
theorem emit_with_ph_inputs (e : Event) (s : State) (p : Phase) (ins : List PortIn) :
    emit e { s with ph := p, inputs := ins } = { emit e s with ph := p, inputs := ins } := by
  have hr : receive e { s with ph := p, inputs := ins } = { receive e s with ph := p, inputs := ins } := by
    have hs : sckRises e { s with ph := p, inputs := ins } = sckRises e s := rfl
    have hl : latRises e { s with ph := p, inputs := ins } = latRises e s := rfl
    unfold receive
    rw [hs, hl]
    split_ifs <;> rfl
  unfold emit
  rw [hr]
  rcases e with ⟨_ | _ | _, _⟩ | _ <;> rfl

/-- A low shift clock, pulsed once, takes the bit written before (R142, R196). -/
theorem emitAll_bitEvents {s : State} (w : Word16) (j : Nat) (hsck : s.sck = false) :
    emitAll (bitEvents w j) s =
      { s with sda := txBit w j, sr := shiftIn s.sr (txBit w j), trace := s.trace ++ bitEvents w j } := by
  obtain ⟨db, bcd, cur, txw, ph, sda, sck, lat, segTable, sr, out, seen, trace, inputs⟩ := s
  cases hsck
  simp [bitEvents, emit, drive, receive, sckRises, latRises]

/-- The latch pulse from a low latch line puts the shift stage on the outputs (R143, R197). -/
theorem emitAll_latch {s : State} (hlat : s.lat = false) :
    emitAll [.pin .lat true, .nop, .pin .lat false] s =
      { s with out := s.sr, seen := seenAfterLatch s.sr s.seen,
               trace := s.trace ++ [.pin .lat true, .nop, .pin .lat false] } := by
  obtain ⟨db, bcd, cur, txw, ph, sda, sck, lat, segTable, sr, out, seen, trace, inputs⟩ := s
  cases hlat
  simp [emit, drive, receive, sckRises, latRises]

/-- One more bit of the word: the low end of the shift stage grows to the word's top `j + 1` bits (R144, R151). -/
theorem shiftIn_txBit {sr w : Word16} {j : Nat} (hj : j < 16) (h : sr.toNat % 2 ^ j = w.toNat / 2 ^ (16 - j)) :
    (shiftIn sr (txBit w j)).toNat % 2 ^ (j + 1) = w.toNat / 2 ^ (16 - (j + 1)) := by
  have hbit : (txBit w j).toNat = w.toNat / 2 ^ (15 - j) % 2 := by
    rw [txBit, BitVec.getLsbD, Nat.toNat_testBit]
  have hdiv : w.toNat / 2 ^ (16 - j) = w.toNat / 2 ^ (15 - j) / 2 := by
    rw [Nat.div_div_eq_div_mul, ← pow_succ, show 15 - j + 1 = 16 - j by omega]
  have hdvd : 2 ^ (j + 1) ∣ 65536 := pow_dvd_pow 2 (show j + 1 ≤ 16 by omega)
  have hbit_lt := (txBit w j).toNat_lt
  have hlow := Nat.mod_lt sr.toNat (Nat.two_pow_pos j)
  have hmod : (sr.toNat * 2 % 65536 + (txBit w j).toNat) % 2 ^ (j + 1) = sr.toNat % 2 ^ j * 2 + (txBit w j).toNat := by
    calc (sr.toNat * 2 % 65536 + (txBit w j).toNat) % 2 ^ (j + 1)
        = (sr.toNat * 2 + (txBit w j).toNat) % 2 ^ (j + 1) :=
          ((Nat.mod_modEq _ 65536).of_dvd hdvd).add_right _
      _ = (2 ^ (j + 1) * (sr.toNat / 2 ^ j) + (sr.toNat % 2 ^ j * 2 + (txBit w j).toNat)) % 2 ^ (j + 1) := by
          congr 1
          rw [pow_succ]
          linarith [Nat.div_add_mod sr.toNat (2 ^ j)]
      _ = sr.toNat % 2 ^ j * 2 + (txBit w j).toNat := by
          rw [Nat.mul_add_mod]
          exact Nat.mod_eq_of_lt (by omega)
  rw [toNat_shiftIn, hmod, h, hdiv, hbit, show 16 - (j + 1) = 15 - j by omega]
  omega

/-- The first `j` bits of a transfer: the shift stage holds the word's top `j` bits at its low end, the data line the bit
sent last, and nothing else has changed but the trace (R142, R151). -/
theorem emitAll_bits {s : State} (w : Word16) (hsck : s.sck = false) {j : Nat} (hj : j ≤ 16) :
    ∃ (d : Bool) (r : Word16),
      emitAll ((List.range j).flatMap (bitEvents w)) s =
        { s with sda := d, sr := r, trace := s.trace ++ (List.range j).flatMap (bitEvents w) } ∧
      r.toNat % 2 ^ j = w.toNat / 2 ^ (16 - j) ∧ (1 ≤ j → d = txBit w (j - 1)) := by
  induction j with
  | zero => exact ⟨s.sda, s.sr, by simp, by have := w.isLt; omega, by omega⟩
  | succ j ih =>
    obtain ⟨d, r, hemit, hr, -⟩ := ih (by omega)
    refine ⟨txBit w j, shiftIn r (txBit w j), ?_, shiftIn_txBit (by omega) hr, fun _ => rfl⟩
    rw [List.range_succ, List.flatMap_append, emitAll_append, hemit]
    simp only [List.flatMap_singleton]
    rw [emitAll_bitEvents (s := { s with sda := d, sr := r, trace := _ }) w j hsck]
    simp

/-- The events of a whole transfer, from low clock lines, leave what the operation level says (R149, R151, R152). -/
theorem emitAll_traceOf {s : State} (w : Word16) (hsck : s.sck = false) (hlat : s.lat = false) :
    { emitAll (traceOf w) s with ph := 0 } = completeTransfer w s := by
  obtain ⟨d, r, hemit, hr, hd⟩ := emitAll_bits w hsck (le_refl 16)
  obtain rfl : r = w := BitVec.eq_of_toNat_eq (by omega)
  obtain rfl : d = r.getLsbD 0 := hd (by omega)
  rw [traceOf, emitAll_append, hemit,
    emitAll_latch (s := { s with sda := _, sr := r, trace := _ }) hlat]
  simp [completeTransfer, traceOf, hsck, hlat]

end Sys2Proof.Machine
end

section
/-! SUPPORT. A transfer at the clock level: the micro-steps, one edge each, emit the trace of the word in `TXW`. -/

namespace Sys2Proof.Machine

@[simp] theorem traceOf_length (w : Word16) : (traceOf w).length = 51 := rfl

/-- Micro-step `n + 1` has the `n`th event of the trace (R144, R149). -/
theorem microEvent_succ {w : Word16} {n : Nat} (hn : n < (traceOf w).length) :
    microEvent w (n + 1) = some (traceOf w)[n] := by
  have hall : (List.range 51).map (fun n => microEvent w (n + 1)) = (traceOf w).map some := rfl
  have hget := congrArg (·[n]?) hall
  simpa [show n < 51 from hn] using hget

/-- The phase after `n` micro-steps of a transfer, counted from its first (R144): 0 after all 51. -/
def phaseAfter (n : Nat) : Phase := BitVec.ofNat 6 ((n + 1) % 52)

theorem toNat_phaseAfter {n : Nat} (hn : n < 51) : (phaseAfter n).toNat = n + 1 := by
  simp [phaseAfter]; omega

theorem nextPhase_phaseAfter {n : Nat} (hn : n < 51) : nextPhase (phaseAfter n) = phaseAfter (n + 1) := by
  revert n; decide

/-- The state after `n` micro-steps of the transfer that starts in `s`. -/
def duringTransfer (n : Nat) (s : State) : State :=
  { emitAll ((traceOf s.txw).take n) s with ph := phaseAfter n, inputs := s.inputs.drop n }

@[simp] theorem duringTransfer_ph (n : Nat) (s : State) : (duringTransfer n s).ph = phaseAfter n := rfl
@[simp] theorem duringTransfer_inputs (n : Nat) (s : State) : (duringTransfer n s).inputs = s.inputs.drop n := rfl
@[simp] theorem duringTransfer_txw (n : Nat) (s : State) : (duringTransfer n s).txw = s.txw := emitAll_txw _ _

/-- The edges that are to be without reset are so. -/
theorem nextInput_duringTransfer {s : State} (hrst : s.noResetFor 51 = true) {n : Nat} (hn : n < 51) :
    (duringTransfer n s).nextInput.rst = false := by
  rw [State.nextInput, duringTransfer_inputs, List.headD_eq_head?_getD, List.head?_drop]
  cases hin : s.inputs[n]? with
  | none => rfl
  | some p =>
    have hmem : p ∈ s.inputs.take 51 := List.mem_of_getElem? (i := n) (by rw [List.getElem?_take, if_pos hn, hin])
    simpa using List.all_eq_true.mp hrst p hmem

/-- One edge without reset is one micro-step further (R144, R145). -/
theorem step_duringTransfer {s : State} (hrst : s.noResetFor 51 = true) {n : Nat} (hn : n < 51) :
    step (duringTransfer n s) = .next (duringTransfer (n + 1) s) := by
  have hph : (phaseAfter n).toNat = n + 1 := toNat_phaseAfter hn
  have hbusy : (duringTransfer n s).ph ≠ 0 := by
    intro h
    rw [duringTransfer_ph] at h
    simp [h] at hph
  have hevent : microEvent s.txw (duringTransfer n s).popInput.ph.toNat = some (traceOf s.txw)[n] :=
    (congrArg _ hph).trans (microEvent_succ hn)
  rw [step_of_busy (nextInput_duringTransfer hrst hn) hbusy, duringTransfer_txw, microStep_eq hevent]
  simp only [duringTransfer, State.popInput, emit_with_ph_inputs, nextPhase_phaseAfter hn, List.tail_drop]
  rw [← List.take_append_getElem hn, emitAll_append, emitAll_cons, emitAll_nil]

/-- `n` edges without reset from the first micro-step emit the first `n` events of the trace of the word in `TXW`,
whatever the host presents (R144, R145, R149). -/
theorem run_transfer {s : State} (hph : s.ph = 1) (hrst : s.noResetFor 51 = true) {n : Nat} (hn : n ≤ 51) :
    Sys2Proof.core.run n s = .next (duringTransfer n s) := by
  induction n with
  | zero =>
    have hstart : duringTransfer 0 s = s := by
      rw [duringTransfer, show phaseAfter 0 = s.ph from hph.symm]; rfl
    rw [run_zero, hstart]
  | succ n ih => rw [run_add (ih (by omega)), run_of_step (step_duringTransfer hrst (by omega)), run_zero]

/-- The whole transfer at the clock level is the operation level's one transition (R149, R151, R152). -/
theorem run_completeTransfer {s : State} (hph : s.ph = 1) (hsck : s.sck = false) (hlat : s.lat = false)
    (hrst : s.noResetFor 51 = true) :
    Sys2Proof.core.run 51 s = .next { completeTransfer s.txw s with inputs := s.inputs.drop 51 } := by
  rw [run_transfer hph hrst (le_refl 51), duringTransfer, List.take_of_length_le (traceOf_length _).le,
    show phaseAfter 51 = 0 from rfl, ← emitAll_traceOf _ hsck hlat]

end Sys2Proof.Machine
end

section
/-! The clock level and the operation level of R6 agree, one command at a time and then over the stream. -/

namespace Sys2Proof.Machine

/-- The state with other inputs for the coming edges. -/
def State.withInputs (ins : List PortIn) (s : State) : State := { s with inputs := ins }

@[simp] theorem withInputs_ph (ins : List PortIn) (s : State) : (s.withInputs ins).ph = s.ph := rfl
@[simp] theorem withInputs_sck (ins : List PortIn) (s : State) : (s.withInputs ins).sck = s.sck := rfl
@[simp] theorem withInputs_lat (ins : List PortIn) (s : State) : (s.withInputs ins).lat = s.lat := rfl
@[simp] theorem withInputs_txw (ins : List PortIn) (s : State) : (s.withInputs ins).txw = s.txw := rfl
@[simp] theorem withInputs_inputs (ins : List PortIn) (s : State) : (s.withInputs ins).inputs = ins := rfl
@[simp] theorem withInputs_withInputs (ins jns : List PortIn) (s : State) :
    (s.withInputs ins).withInputs jns = s.withInputs jns := rfl

/-- The state with the inputs it has. -/
theorem withInputs_self {ins : List PortIn} {s : State} (h : s.inputs = ins) : s.withInputs ins = s := by
  subst h; rfl

/-- An answer whose state, if it has one, gets other inputs. -/
def answerWithInputs (ins : List PortIn) : Result → Result
  | .next s => .next (s.withInputs ins)
  | .fault f => .fault f
  | .refused r => .refused r

theorem whenReady_withInputs (ins : List PortIn) (s : State) (r : Result) :
    whenReady (s.withInputs ins) (answerWithInputs ins r) = answerWithInputs ins (whenReady s r) := by
  by_cases hp : s.ph = 0
  · rw [whenReady_of_idle hp, whenReady_of_idle (s := s.withInputs ins) hp]
  · rw [whenReady_of_busy hp, whenReady_of_busy (s := s.withInputs ins) hp]; rfl

theorem renderAndPublish_withInputs (ins : List PortIn) (d : DisplayedValue) (s : State) :
    renderAndPublish d (s.withInputs ins) = answerWithInputs ins (renderAndPublish d s) := by
  have htable : (s.withInputs ins).segTable = s.segTable := rfl
  unfold renderAndPublish
  rw [htable]
  cases render s.segTable d <;> rfl

/-- A command does not look at the inputs of the coming edges. -/
theorem exec_command_withInputs {i : Instr} (hc : i.isCommand = true) (ins : List PortIn) (s : State) :
    exec i (s.withInputs ins) = answerWithInputs ins (exec i s) := by
  cases i with
  | nop => exact whenReady_withInputs ins s (.next s)
  | encode v =>
    simp only [exec, execEncode, ← whenReady_withInputs]
    split_ifs <;> rfl
  | renderN v | renderP v =>
    simp only [exec, execRenderN, execRenderP, renderAndPublish_withInputs, whenReady_withInputs]
  | tick => exact whenReady_withInputs ins s (.next (startRefresh (s.cur + 1) (advanceCursor s)))
  | refresh d => exact whenReady_withInputs ins s (.next (startRefresh d s))
  | frameD0 | frameD1 | frameD2 | frameD3 => cases hc

/-- Nor does its acceptance. -/
theorem acceptCommand_withInputs (w : CmdWord) (ins : List PortIn) (s : State) :
    acceptCommand w (s.withInputs ins) = answerWithInputs ins (acceptCommand w s) := by
  unfold acceptCommand
  cases h : decodeCommand w with
  | error e => rfl
  | ok i => exact exec_command_withInputs (isCommand_of_decode h) ins s

/-- An accepted command leaves the clock lines and the inputs alone, and either the block stays idle or it starts the
transfer that keeps the port closed for 51 edges (R145, R171). -/
theorem acceptCommand_next {w : CmdWord} {s t : State} (hp : s.ph = 0) (h : acceptCommand w s = .next t) :
    t.sck = s.sck ∧ t.lat = s.lat ∧ t.inputs = s.inputs ∧
      ((t.ph = 0 ∧ busyEdges w = 0) ∨ (t.ph = 1 ∧ busyEdges w = 51)) := by
  unfold acceptCommand at h
  cases hd : decodeCommand w with
  | error e => simp [hd] at h
  | ok i =>
    simp only [hd] at h
    rcases exec_command_cases (isCommand_of_decode hd) hp h with
      ⟨rfl, rfl⟩ | ⟨v, rfl, -, rfl⟩ | ⟨v, p, rfl, -, rfl⟩ | ⟨v, p, rfl, -, rfl⟩ | ⟨rfl, rfl⟩ | ⟨d, rfl, rfl⟩
    all_goals simp [busyEdges, hd, hp, Config.lastStep]

/-- An edge that presents a word to an idle block accepts it (R189 case 3). -/
theorem step_of_present {s : State} {w : CmdWord} {rest : List PortIn} (hp : s.ph = 0)
    (hin : s.inputs = PortIn.present w :: rest) :
    step s = answerWithInputs rest (acceptCommand w (s.withInputs [])) := by
  have hb : (s.withInputs rest).busy = false := by simp [State.busy, hp]
  have hpop : s.popInput = s.withInputs rest := by simp [State.popInput, State.withInputs, hin]
  have hnext : s.nextInput = PortIn.present w := by simp [State.nextInput, hin]
  rw [← acceptCommand_withInputs, withInputs_withInputs, step, hpop, hnext]
  simp [clockEdge, PortIn.present, hb]

/-- A host that waits gives no reset. -/
theorem waiting_rst (ws : List CmdWord) : (waiting ws).rst = false := by
  cases ws <;> rfl

/-- From the first micro-step, while the host holds its next word, 51 edges make the complete transfer (R87, R171). -/
theorem run_transfer_waiting {s : State} (ws : List CmdWord) (rest : List PortIn) (hph : s.ph = 1)
    (hsck : s.sck = false) (hlat : s.lat = false) :
    Sys2Proof.core.run 51 (s.withInputs (List.replicate 51 (waiting ws) ++ rest)) =
      .next ((completeTransfer s.txw s).withInputs rest) := by
  have hrst : (s.withInputs (List.replicate 51 (waiting ws) ++ rest)).noResetFor 51 = true := by
    simp [State.noResetFor, waiting_rst]
  exact run_completeTransfer (s := s.withInputs _) hph hsck hlat hrst

/-- Settles O42, by induction on the stream: the edge that accepts the first word answers what the operation level's
acceptance answers, and if that starts a refresh, the edges after it are its whole transfer. -/
theorem clockLevelRefinesOperationLevel : Obligations.ClockLevelRefinesOperationLevel := by
  intro ws
  induction ws with
  | nil =>
    intro s _ hin
    exact congrArg Host.Outcome.next (withInputs_self hin).symm
  | cons w ws ih =>
    intro s ⟨hp, hsck, hlat⟩ hin
    have hstep := step_of_present hp hin
    have hlen : (holdStream (w :: ws)).length = busyEdges w + (holdStream ws).length + 1 := by
      simp [holdStream]
    change _ = opRun (w :: ws) (s.withInputs [])
    rw [hlen, opRun, opCommand]
    cases hacc : acceptCommand w (s.withInputs []) with
    | fault f => cases f
    | refused r => exact run_of_refused (hstep.trans (congrArg _ hacc)) _
    | next t =>
      obtain ⟨htsck, htlat, htin, hbusy⟩ := acceptCommand_next (s := s.withInputs []) hp hacc
      rw [run_of_step (hstep.trans (congrArg _ hacc))]
      have hrest {u : State} (hq : u.Quiet) (hu : u.inputs = []) :
          Sys2Proof.core.run (holdStream ws).length (u.withInputs (holdStream ws)) = opRun ws u :=
        (ih (u.withInputs (holdStream ws)) hq rfl).trans (congrArg (opRun ws) (withInputs_self hu))
      rcases hbusy with ⟨htp, hedges⟩ | ⟨htp, hedges⟩
      · have hidle : t.busy = false := by simp [State.busy, htp]
        simp only [hedges, hidle, Nat.zero_add, List.replicate_zero, List.nil_append, Bool.false_eq_true, if_false]
        exact hrest ⟨htp, htsck.trans hsck, htlat.trans hlat⟩ htin
      · have hbusy : t.busy = true := by simp [State.busy, htp]
        simp only [hedges, hbusy, if_true]
        rw [run_add (run_transfer_waiting ws (holdStream ws) htp (htsck.trans hsck) (htlat.trans hlat))]
        exact hrest ⟨rfl, rfl, rfl⟩ htin

end Sys2Proof.Machine
end

section
/-! SUPPORT. What a step of an idle block and of a busy one can do, in terms of the command accepted and the event sent. -/

namespace Sys2Proof.Machine

/-- The port carries one word, so at most one command is accepted at an edge (R171). -/
theorem accepts_unique {s : State} {i j : Instr} (hi : s.Accepts i) (hj : s.Accepts j) : i = j := by
  obtain ⟨-, -, -, hi⟩ := hi
  obtain ⟨-, -, -, hj⟩ := hj
  exact Except.ok.inj (hi.symm.trans hj)

/-- The state after a micro-step with the event `e` (R144). -/
def afterMicroStep (e : Event) (s : State) : State := { emit e s with ph := nextPhase s.ph }

@[simp] theorem afterMicroStep_db (e : Event) (s : State) : (afterMicroStep e s).db = s.db := emit_db e s
@[simp] theorem afterMicroStep_bcd (e : Event) (s : State) : (afterMicroStep e s).bcd = s.bcd := emit_bcd e s
@[simp] theorem afterMicroStep_cur (e : Event) (s : State) : (afterMicroStep e s).cur = s.cur := emit_cur e s
@[simp] theorem afterMicroStep_txw (e : Event) (s : State) : (afterMicroStep e s).txw = s.txw := emit_txw e s
@[simp] theorem afterMicroStep_ph (e : Event) (s : State) : (afterMicroStep e s).ph = nextPhase s.ph := rfl
@[simp] theorem afterMicroStep_segTable (e : Event) (s : State) : (afterMicroStep e s).segTable = s.segTable :=
  emit_segTable e s
@[simp] theorem afterMicroStep_trace (e : Event) (s : State) : (afterMicroStep e s).trace = s.trace ++ [e] :=
  emit_trace e s
@[simp] theorem afterMicroStep_sda (e : Event) (s : State) :
    (afterMicroStep e s).sda = (match e with | .pin .sda l => l | _ => s.sda) := emit_sda e s
@[simp] theorem afterMicroStep_sck (e : Event) (s : State) :
    (afterMicroStep e s).sck = (match e with | .pin .sck l => l | _ => s.sck) := emit_sck e s
@[simp] theorem afterMicroStep_lat (e : Event) (s : State) :
    (afterMicroStep e s).lat = (match e with | .pin .lat l => l | _ => s.lat) := emit_lat e s
@[simp] theorem afterMicroStep_sr (e : Event) (s : State) : (afterMicroStep e s).sr =
    if e = .pin .sck true ∧ s.sck = false then shiftIn s.sr s.sda else s.sr :=
  (emit_sr e s).trans (receive_sr e s)
@[simp] theorem afterMicroStep_out (e : Event) (s : State) : (afterMicroStep e s).out =
    if e = .pin .lat true ∧ s.lat = false then s.sr else s.out :=
  (emit_out e s).trans (receive_out e s)
@[simp] theorem afterMicroStep_seen (e : Event) (s : State) : (afterMicroStep e s).seen =
    if e = .pin .lat true ∧ s.lat = false then seenAfterLatch s.sr s.seen else s.seen :=
  (emit_seen e s).trans (receive_seen e s)

/-- The whole micro-step program: which event a phase has, and which phase comes next (R144). -/
theorem microEvent_cases {w : Word16} {ph : Phase} {e : Event} (h : microEvent w ph.toNat = some e) :
    (1 ≤ ph.toNat ∧ ph.toNat ≤ 48 ∧ (nextPhase ph).toNat = ph.toNat + 1 ∧
      ((ph.toNat % 3 = 1 ∧ e = .pin .sda (txBit w ((ph.toNat - 1) / 3))) ∨
       (ph.toNat % 3 = 2 ∧ e = .pin .sck true) ∨ (ph.toNat % 3 = 0 ∧ e = .pin .sck false))) ∨
    (ph.toNat = 49 ∧ (nextPhase ph).toNat = ph.toNat + 1 ∧ e = .pin .lat true) ∨
    (ph.toNat = 50 ∧ (nextPhase ph).toNat = ph.toNat + 1 ∧ e = .nop) ∨
    (ph.toNat = 51 ∧ (nextPhase ph).toNat = 0 ∧ e = .pin .lat false) := by
  have hnext : ph.toNat ≤ 51 → (nextPhase ph).toNat = if ph.toNat = 51 then 0 else ph.toNat + 1 := toNat_nextPhase
  generalize (nextPhase ph).toNat = q at *
  generalize ph.toNat = p at *
  by_cases hbit : 1 ≤ p ∧ p ≤ 48
  · obtain ⟨h1, h2⟩ := hbit
    have hq : q = p + 1 := by rw [hnext (by omega), if_neg (by omega)]
    refine .inl ⟨h1, h2, hq, ?_⟩
    have hmod : p % 3 = 1 ∨ p % 3 = 2 ∨ p % 3 = 0 := by omega
    rcases hmod with hm | hm | hm
    · rw [microEvent_sda h1 h2 hm] at h
      exact .inl ⟨hm, (Option.some.inj h).symm⟩
    · rw [microEvent_rise h1 h2 hm] at h
      exact .inr (.inl ⟨hm, (Option.some.inj h).symm⟩)
    · rw [microEvent_fall h1 h2 hm] at h
      exact .inr (.inr ⟨hm, (Option.some.inj h).symm⟩)
  · rw [microEvent, if_neg hbit] at h
    split_ifs at h with h49 h50 h51
    all_goals simp_all

/-- Only the phases 1 to 51 have an event (R25, R144). -/
theorem phaseLegal_of_microEvent {s : State} {w : Word16} {e : Event} (h : microEvent w s.ph.toNat = some e) :
    s.PhaseLegal := by
  have hcases := microEvent_cases h
  simp only [State.PhaseLegal, Config.lastStep]
  omega

/-- What a step of an idle block without reset can be: one case a command, and one for an edge that accepts no command
with an effect (R171, R189 cases 3 and 4). -/
theorem step_idle_cases {s t : State} (hr : s.nextInput.rst = false) (hp : s.ph = 0) (h : step s = .next t) :
    ((∀ i, s.Accepts i → i = .nop) ∧ t = s.popInput) ∨
    (∃ v, s.Accepts (.encode v) ∧ t = setBcd (encodeBcd v) s.popInput) ∨
    (∃ d p, (s.Accepts (.renderN d.m) ∨ s.Accepts (.renderP d.m)) ∧ render s.segTable d = some p ∧
      t = publish p s.popInput) ∨
    (s.Accepts .tick ∧ t = startRefresh (s.cur + 1) (advanceCursor s.popInput)) ∨
    (∃ d, s.Accepts (.refresh d) ∧ t = startRefresh d s.popInput) := by
  rcases step_cases h with ⟨hrst, -⟩ | ⟨-, hbusy, -⟩ | ⟨-, -, hv, i, hdec, hexec⟩ | ⟨-, -, hv, rfl⟩
  · simp [hr] at hrst
  · exact absurd hp hbusy
  · have hacc : s.Accepts i := ⟨hr, hp, hv, hdec⟩
    rcases exec_command_cases (s := s.popInput) (isCommand_of_decode hdec) hp hexec with
      ⟨rfl, rfl⟩ | ⟨v, rfl, -, rfl⟩ | ⟨v, p, rfl, hrender, rfl⟩ | ⟨v, p, rfl, hrender, rfl⟩ | ⟨rfl, rfl⟩ | ⟨d, rfl, rfl⟩
    · exact .inl ⟨fun j hj => accepts_unique hj hacc, rfl⟩
    · exact .inr (.inl ⟨v, hacc, rfl⟩)
    · exact .inr (.inr (.inl ⟨_, p, .inl hacc, hrender, rfl⟩))
    · exact .inr (.inr (.inl ⟨_, p, .inr hacc, hrender, rfl⟩))
    · exact .inr (.inr (.inr (.inl ⟨hacc, rfl⟩)))
    · exact .inr (.inr (.inr (.inr ⟨d, hacc, rfl⟩)))
  · refine .inl ⟨fun i hacc => ?_, rfl⟩
    obtain ⟨-, -, hv', -⟩ := hacc
    simp [hv] at hv'

/-- What a step of a busy block without reset can be: the micro-step of the word in `TXW` (R189 case 2). -/
theorem step_busy_cases {s t : State} (hr : s.nextInput.rst = false) (hp : s.ph ≠ 0) (h : step s = .next t) :
    ∃ e, microEvent s.txw s.ph.toNat = some e ∧ t = afterMicroStep e s.popInput := by
  rw [step_of_busy hr hp] at h
  exact microStep_next h

/-- An edge with reset (R189 case 1). -/
theorem step_of_reset {s : State} (hr : s.nextInput.rst = true) : step s = .next (applyReset s.popInput) := by
  simp [step, clockEdge, hr]

/-- Everything a step that answers a next state can be: reset, a micro-step, or an edge of an idle block (R189). -/
theorem step_next_cases {s t : State} (h : step s = .next t) :
    (s.nextInput.rst = true ∧ t = applyReset s.popInput) ∨
    (s.nextInput.rst = false ∧ s.ph ≠ 0 ∧
      ∃ e, microEvent s.txw s.ph.toNat = some e ∧ t = afterMicroStep e s.popInput) ∨
    (s.nextInput.rst = false ∧ s.ph = 0) := by
  cases hr : s.nextInput.rst with
  | true =>
    rw [step_of_reset hr] at h
    exact .inl ⟨rfl, (Host.Outcome.next.inj h).symm⟩
  | false =>
    by_cases hp : s.ph = 0
    · exact .inr (.inr ⟨rfl, hp⟩)
    · exact .inr (.inl ⟨rfl, hp, step_busy_cases hr hp h⟩)

end Sys2Proof.Machine
end

section
/-! SUPPORT. What the encoder and the renderer can write: decimal digits into `BCD` (R102), patterns of the table into the
buffer (R89). -/

namespace Sys2Proof.Machine

/-- `n` iterations have moved the top `n` bits of the value, as four decimal digits, into the upper half; the rest of the
value stands at the top of the lower half (R102 (a), (b)). -/
theorem dabble_pack (v : Word16) (n : Nat) :
    (dabble n (v.zeroExtend 32)).toNat =
      packScr (v.toNat * 2 ^ n / 65536 / 1000 % 10) (v.toNat * 2 ^ n / 65536 / 100 % 10)
        (v.toNat * 2 ^ n / 65536 / 10 % 10) (v.toNat * 2 ^ n / 65536 % 10) (v.toNat * 2 ^ n % 65536) := by
  induction n with
  | zero =>
    have hv := v.isLt
    have hstart : (dabble 0 (v.zeroExtend 32)).toNat = v.toNat := by simp [dabble]; omega
    rw [hstart]
    simp only [packScr]
    omega
  | succ n ih =>
    rw [dabble, dabbleStep_pack (by omega) (by omega) (by omega) (by omega) (by omega) ih, pow_succ, ← mul_assoc]
    generalize v.toNat * 2 ^ n = y
    have hquot : y * 2 / 65536 = 2 * (y / 65536) + y % 65536 / 32768 := by omega
    have hrest : 2 * (y % 65536) % 65536 = y * 2 % 65536 := by omega
    have hbit : y % 65536 / 32768 < 2 := by omega
    rw [hquot, hrest]
    generalize y / 65536 = q at *
    generalize y % 65536 / 32768 = b at *
    congr 1 <;> omega

/-- A result nibble of the register is the digit it was packed from. -/
theorem nibble_packScr {scr : Word32} {d3 d2 d1 d0 x : Nat} (h3 : d3 ≤ 9) (h2 : d2 ≤ 9) (h1 : d1 ≤ 9) (h0 : d0 ≤ 9)
    (hx : x < 65536) (h : scr.toNat = packScr d3 d2 d1 d0 x) (k : Fin 4) :
    (nibble (scr.extractLsb' 16 16) k.val).toNat = #v[d0, d1, d2, d3][k] := by
  have hupper : (scr.extractLsb' 16 16).toNat = ((d3 * 16 + d2) * 16 + d1) * 16 + d0 := by
    simp only [BitVec.extractLsb'_toNat, Nat.shiftRight_eq_div_pow, h, packScr]
    omega
  rw [toNat_nibble, hupper]
  fin_cases k <;> simp <;> omega

/-- Every nibble of the encoder's result is a decimal digit, whatever the operand (R102 (b)). -/
theorem nibble_encodeBcd_le (v : Word16) (k : Fin 4) : (nibble (encodeBcd v) k.val).toNat ≤ 9 := by
  rw [encodeBcd, nibble_packScr (by omega) (by omega) (by omega) (by omega) (by omega) (dabble_pack v Config.nIter)]
  fin_cases k <;> simp <;> omega

theorem drawable_blank (t : SegTable) : Drawable t Config.blank := .inl rfl

/-- A lookup that has an entry yields an entry of the table (R30, R61). -/
theorem drawable_of_lutRead {t : SegTable} {n : Nat} {p : Byte} (h : lutRead t n = some p) : Drawable t p := by
  obtain ⟨hn, hp⟩ := Vector.getElem?_eq_some_iff.mp h
  exact .inr ⟨⟨n, hn⟩, hp.symm⟩

/-- A position of the scan shows an entry of the table or is blank (R122). -/
theorem drawable_of_scanPosition {t : SegTable} {n : Nibble} {shown : Bool} {r : Byte × Bool}
    (h : scanPosition t n shown = some r) : Drawable t r.1 := by
  unfold scanPosition at h
  split at h
  · obtain ⟨p, hp, rfl⟩ := Option.map_eq_some_iff.mp h
    exact drawable_of_lutRead hp
  · obtain rfl := Option.some.inj h
    exact drawable_blank t

/-- Whatever `render` writes, it writes drawable patterns into all four positions (R121 to R123). -/
theorem drawable_of_render {t : SegTable} {d : DisplayedValue} {p : Vector Byte 4} (h : render t d = some p)
    (i : Fin 4) : Drawable t p[i] := by
  unfold render at h
  split at h
  · obtain ⟨o, ho, rfl⟩ := Option.map_eq_some_iff.mp h
    have hdraw := drawable_of_lutRead ho
    fin_cases i <;> exact hdraw
  · simp only [renderDigits, Option.bind_eq_bind, Option.bind_eq_some_iff] at h
    obtain ⟨r3, h3, r2, h2, r1, h1, r0, h0, h⟩ := h
    have hd3 := drawable_of_scanPosition h3
    have hd2 := drawable_of_scanPosition h2
    have hd1 := drawable_of_scanPosition h1
    have hd0 := drawable_of_scanPosition h0
    split at h
    · obtain rfl := Option.some.inj h
      fin_cases i <;> assumption
    · obtain ⟨z, hz, rfl⟩ := Option.map_eq_some_iff.mp h
      have hdz := drawable_of_lutRead hz
      fin_cases i <;> assumption

end Sys2Proof.Machine
end

section
/-! The invariant of the machine, one part of it at a time through a micro-step, then through each kind of edge. -/

namespace Sys2Proof.Machine

/-- A micro-step ends in a legal phase (R25). -/
theorem afterMicroStep_keeps_phaseLegal {s : State} {e : Event} (he : microEvent s.txw s.ph.toNat = some e) :
    (afterMicroStep e s).PhaseLegal := by
  have hcases := microEvent_cases he
  simp only [State.PhaseLegal, afterMicroStep_ph, Config.lastStep]
  omega

/-- The clock lines go up and down with the pulse in progress (R142, R143). -/
theorem afterMicroStep_keeps_clocks {s : State} {e : Event} (he : microEvent s.txw s.ph.toNat = some e)
    (hclocks : s.ClocksFollowPhase) : (afterMicroStep e s).ClocksFollowPhase := by
  obtain ⟨hsck, hlat⟩ := hclocks
  rcases microEvent_cases he with
    ⟨h1, h2, hq, ⟨hm, rfl⟩ | ⟨hm, rfl⟩ | ⟨hm, rfl⟩⟩ | ⟨hp, hq, rfl⟩ | ⟨hp, hq, rfl⟩ | ⟨hp, hq, rfl⟩
  all_goals
    simp only [State.ClocksFollowPhase, afterMicroStep_sck, afterMicroStep_lat, afterMicroStep_ph, hsck, hlat, hq,
      decide_eq_decide, true_eq_decide_iff, false_eq_decide_iff, and_true]
    omega

/-- The data line takes a bit at the first micro-step of each pulse and keeps it through the rest (R142). -/
theorem afterMicroStep_keeps_data {s : State} {e : Event} (he : microEvent s.txw s.ph.toNat = some e)
    (hdata : s.DataFollowsPhase) : (afterMicroStep e s).DataFollowsPhase := by
  obtain ⟨-, hdata⟩ := hdata
  have hbusy : (nextPhase s.ph).toNat = s.ph.toNat + 1 → nextPhase s.ph ≠ 0 := fun hq h0 => by simp [h0] at hq
  have hkeep (hq : (nextPhase s.ph).toNat = s.ph.toNat + 1) (h2 : 2 ≤ s.ph.toNat)
      (hbit : s.ph.toNat % 3 ≠ 1 ∨ 48 < s.ph.toNat) :
      (nextPhase s.ph = 0 → s.sda = s.txw.getLsbD 0) ∧
      (2 ≤ s.ph.toNat + 1 → s.sda = txBit s.txw (min ((s.ph.toNat + 1 - 2) / 3) 15)) := by
    refine ⟨fun h0 => absurd h0 (hbusy hq), fun _ => ?_⟩
    rw [hdata h2, show min ((s.ph.toNat + 1 - 2) / 3) 15 = min ((s.ph.toNat - 2) / 3) 15 by omega]
  rcases microEvent_cases he with
    ⟨h1, h2, hq, ⟨hm, rfl⟩ | ⟨hm, rfl⟩ | ⟨hm, rfl⟩⟩ | ⟨hp, hq, rfl⟩ | ⟨hp, hq, rfl⟩ | ⟨hp, hq, rfl⟩
  all_goals
    simp only [State.DataFollowsPhase, afterMicroStep_sda, afterMicroStep_txw, afterMicroStep_ph, hq]
  · refine ⟨fun h0 => absurd h0 (hbusy hq), fun _ => ?_⟩
    rw [show min ((s.ph.toNat + 1 - 2) / 3) 15 = (s.ph.toNat - 1) / 3 by omega]
  · exact hkeep hq (by omega) (by omega)
  · exact hkeep hq (by omega) (by omega)
  · exact hkeep hq (by omega) (by omega)
  · exact hkeep hq (by omega) (by omega)
  · exact ⟨fun _ => by simpa [hp, txBit] using hdata, fun h0 => absurd h0 (by omega)⟩

/-- The word in flight and the buffer it was built from stay (R58, R141). -/
theorem afterMicroStep_keeps_frame {s : State} {e : Event} (hbusy : s.ph ≠ 0) (hframe : s.FrameInFlight) :
    (afterMicroStep e s).FrameInFlight := by
  intro _
  obtain ⟨i, hi⟩ := hframe hbusy
  exact ⟨i, by rw [afterMicroStep_txw, hi, dbsRead_congr (afterMicroStep_db e s)]⟩

/-- The shift clock is low outside the pulses (R144, R152). -/
theorem sck_eq_false {s : State} (hclocks : s.ClocksFollowPhase) (hp : s.ph.toNat % 3 ≠ 0 ∨ 48 < s.ph.toNat) :
    s.sck = false := by
  rw [hclocks.1, decide_eq_false_iff_not]
  omega

/-- The latch clock is low until micro-step 49 is done (R143, R144). -/
theorem lat_eq_false {s : State} (hclocks : s.ClocksFollowPhase) (hp : s.ph.toNat ≤ 49) : s.lat = false := by
  rw [hclocks.2, decide_eq_false_iff_not]
  omega

/-- From micro-step 48 on the shift stage is the whole word (R151). -/
theorem sr_eq_txw {s : State} (hreceiver : s.ReceiverFollows) (h48 : 48 ≤ s.ph.toNat) : s.sr = s.txw := by
  have hbusy : s.ph ≠ 0 := fun h0 => by simp [h0] at h48
  obtain ⟨hsr, -⟩ := hreceiver hbusy
  rw [show pulsesRisen s.ph.toNat = 16 by simp only [pulsesRisen]; omega] at hsr
  exact BitVec.eq_of_toNat_eq (by omega)

/-- Each rising shift clock adds the bit on the data line to those taken before, and the latch shows the word (R144,
R151). -/
theorem afterMicroStep_keeps_receiver {s : State} {e : Event} (he : microEvent s.txw s.ph.toNat = some e)
    (hbusy : s.ph ≠ 0) (hclocks : s.ClocksFollowPhase) (hdata : s.DataFollowsPhase)
    (hreceiver : s.ReceiverFollows) : (afterMicroStep e s).ReceiverFollows := by
  obtain ⟨-, hsda⟩ := hdata
  obtain ⟨hsr, hout⟩ := hreceiver hbusy
  have hpulses (hm : s.ph.toNat % 3 ≠ 2 ∨ 48 ≤ s.ph.toNat) :
      pulsesRisen (s.ph.toNat + 1) = pulsesRisen s.ph.toNat := by
    simp only [pulsesRisen]; omega
  intro hbusy'
  rcases microEvent_cases he with
    ⟨h1, h2, hq, ⟨hm, rfl⟩ | ⟨hm, rfl⟩ | ⟨hm, rfl⟩⟩ | ⟨hp, hq, rfl⟩ | ⟨hp, hq, rfl⟩ | ⟨hp, hq, rfl⟩
  all_goals
    simp only [afterMicroStep_sr, afterMicroStep_out, afterMicroStep_txw, afterMicroStep_ph, hq, Event.pin.injEq,
      reduceCtorEq, false_and, and_false, true_and, if_false]
  · exact ⟨by rw [hpulses (by omega)]; exact hsr, fun h50 => hout (by omega)⟩
  · have hbit : s.sda = txBit s.txw (pulsesRisen s.ph.toNat) := by
      rw [hsda (by omega), pulsesRisen, show min ((s.ph.toNat - 2) / 3) 15 = min (s.ph.toNat / 3) 16 by omega]
    have hnext : pulsesRisen (s.ph.toNat + 1) = pulsesRisen s.ph.toNat + 1 := by simp only [pulsesRisen]; omega
    rw [if_pos (sck_eq_false hclocks (by omega)), hbit, hnext]
    exact ⟨shiftIn_txBit (by simp only [pulsesRisen]; omega) hsr, fun h50 => by omega⟩
  · exact ⟨by rw [hpulses (by omega)]; exact hsr, fun h50 => hout (by omega)⟩
  · rw [if_pos (lat_eq_false hclocks (by omega))]
    exact ⟨by rw [hpulses (by omega)]; exact hsr, fun _ => sr_eq_txw hreceiver (by omega)⟩
  · exact ⟨by rw [hpulses (by omega)]; exact hsr, fun _ => hout (by omega)⟩
  · exact absurd (BitVec.eq_of_toNat_eq hq) hbusy'

/-- A latched frame shows its pattern at the position it selects (R201). -/
theorem seenAfterLatch_frame (i : Digit) (p : Byte) (seen : Vector (Option Byte) 4) :
    seenAfterLatch (frame i p) seen = seen.set i.toNat (some p) i.isLt := by
  simp [seenAfterLatch, frame]

/-- The latch adds a pattern of the buffer to what has been seen (R141, R201). -/
theorem afterMicroStep_keeps_seen {s : State} {e : Event} (he : microEvent s.txw s.ph.toNat = some e) (hbusy : s.ph ≠ 0)
    (hframe : s.FrameInFlight) (hreceiver : s.ReceiverFollows) (hbuffer : s.BufferDrawable)
    (hseen : s.SeenDrawable) : (afterMicroStep e s).SeenDrawable := by
  intro k p hp
  rw [afterMicroStep_segTable]
  rw [afterMicroStep_seen] at hp
  split_ifs at hp with hlatch
  · rw [hlatch.1] at he
    obtain ⟨h49, -⟩ : s.ph.toNat = 49 ∧ (nextPhase s.ph).toNat = s.ph.toNat + 1 := by
      simpa using microEvent_cases he
    obtain ⟨i, hi⟩ := hframe hbusy
    rw [sr_eq_txw hreceiver (by omega), hi, seenAfterLatch_frame, Fin.getElem_fin, Vector.getElem_set] at hp
    split_ifs at hp
    · exact Option.some.inj hp ▸ hbuffer i
    · exact hseen k p hp
  · exact hseen k p hp

/-- A micro-step keeps the invariant. -/
theorem inv_afterMicroStep {s : State} {e : Event} (hinv : s.Inv) (hbusy : s.ph ≠ 0)
    (he : microEvent s.txw s.ph.toNat = some e) : (afterMicroStep e s).Inv where
  phaseLegal := afterMicroStep_keeps_phaseLegal he
  clocks := afterMicroStep_keeps_clocks he hinv.clocks
  data := afterMicroStep_keeps_data he hinv.data
  frame := afterMicroStep_keeps_frame hbusy hinv.frame
  receiver := afterMicroStep_keeps_receiver he hbusy hinv.clocks hinv.data hinv.receiver
  buffer := fun i => by
    rw [afterMicroStep_segTable, dbsRead_congr (afterMicroStep_db e s)]
    exact hinv.buffer i
  seen := afterMicroStep_keeps_seen he hbusy hinv.frame hinv.receiver hinv.buffer hinv.seen
  bcd := by
    rw [State.BcdDecimal, afterMicroStep_bcd]
    exact hinv.bcd

/-- Using up an edge's inputs keeps the invariant, which says nothing of them. -/
theorem inv_popInput {s : State} (hinv : s.Inv) : s.popInput.Inv := { hinv with }

/-- Reset keeps the invariant (R35, R220). -/
theorem inv_applyReset {s : State} (hinv : s.Inv) : (applyReset s).Inv where
  phaseLegal := by simp
  clocks := by simp [State.ClocksFollowPhase]
  data := by simp [State.DataFollowsPhase]
  frame := fun hbusy => absurd rfl hbusy
  receiver := fun hbusy => absurd rfl hbusy
  buffer := by
    have hdark : ∀ i : Digit, dbsRead State.reset i = Config.blank := by decide
    exact fun i => .inl ((dbsRead_congr (t := applyReset s) (s := State.reset) rfl i).trans (hdark i))
  seen := hinv.seen
  bcd := by
    have hzero : State.reset.BcdDecimal := by decide
    exact hzero

/-- The encoder's result in `BCD` keeps the invariant (R102, R104). -/
theorem inv_setBcd_encodeBcd {s : State} (hinv : s.Inv) (v : Word16) : (setBcd (encodeBcd v) s).Inv :=
  { hinv with bcd := nibble_encodeBcd_le v }

/-- The renderer's patterns in the buffer keep the invariant of an idle block (R127, R128). -/
theorem inv_publish {s : State} {d : DisplayedValue} {p : Vector Byte 4} (hinv : s.Inv) (hidle : s.ph = 0)
    (hrender : render s.segTable d = some p) : (publish p s).Inv :=
  { hinv with
    frame := fun hbusy => absurd hidle hbusy
    buffer := fun i => drawable_of_render hrender i.toFin }

/-- Moving the cursor keeps the invariant, which says nothing of it. -/
theorem inv_advanceCursor {s : State} (hinv : s.Inv) : (advanceCursor s).Inv := { hinv with }

/-- The start of a refresh on an idle block keeps the invariant: the clock lines are low and no bit has been sent (R146,
R152). -/
theorem inv_startRefresh {s : State} (hinv : s.Inv) (hidle : s.ph = 0) (i : Digit) : (startRefresh i s).Inv where
  phaseLegal := by simp [Config.lastStep]
  clocks := by simpa [State.ClocksFollowPhase, hidle] using hinv.clocks
  data := by simp [State.DataFollowsPhase]
  frame := fun _ => ⟨i, rfl⟩
  receiver := fun _ => by
    have hword := (startRefresh i s).txw.isLt
    have hnone : pulsesRisen (1 : Phase).toNat = 0 := by decide
    refine ⟨?_, fun h50 => absurd h50 (by simp)⟩
    rw [startRefresh_ph, hnone]
    omega
  buffer := hinv.buffer
  seen := hinv.seen
  bcd := hinv.bcd

/-- Settles O43: reset, a micro-step and each accepted command keep the invariant. -/
theorem stepKeepsInvariant : Obligations.StepKeepsInvariant := by
  intro s s' hinv hstep
  have hpop := inv_popInput hinv
  rcases step_next_cases hstep with ⟨-, rfl⟩ | ⟨-, hbusy, e, he, rfl⟩ | ⟨hrst, hidle⟩
  · exact inv_applyReset hpop
  · exact inv_afterMicroStep hpop hbusy he
  · rcases step_idle_cases hrst hidle hstep with
      ⟨-, rfl⟩ | ⟨v, -, rfl⟩ | ⟨d, p, -, hrender, rfl⟩ | ⟨-, rfl⟩ | ⟨d, -, rfl⟩
    · exact hpop
    · exact inv_setBcd_encodeBcd hpop v
    · exact inv_publish hpop hidle hrender
    · exact inv_startRefresh (inv_advanceCursor hpop) hidle _
    · exact inv_startRefresh hpop hidle d

end Sys2Proof.Machine
end

section
/-! The rules about the registers and the lines that hold of every step. -/

namespace Sys2Proof.Machine

/-- Settles O47: no kind of edge writes the table. -/
theorem segmentTableIsImmutable : Obligations.SegmentTableIsImmutable := by
  intro s s' hstep
  rcases step_next_cases hstep with ⟨-, rfl⟩ | ⟨-, -, e, -, rfl⟩ | ⟨hrst, hidle⟩
  · rfl
  · exact afterMicroStep_segTable e s.popInput
  · rcases step_idle_cases hrst hidle hstep with
      ⟨-, rfl⟩ | ⟨v, -, rfl⟩ | ⟨d, p, -, -, rfl⟩ | ⟨-, rfl⟩ | ⟨d, -, rfl⟩ <;> rfl

/-- Settles O48: a busy block changes only its phase, its lines, the receiver and the trace; on an idle one each case of
the command accepted writes its own registers. -/
theorem whoWritesWhat : Obligations.WhoWritesWhat := by
  intro s s' hstep hrst
  by_cases hidle : s.ph = 0
  · rcases step_idle_cases hrst hidle hstep with
      ⟨-, rfl⟩ | ⟨v, hacc, rfl⟩ | ⟨d, p, hacc, -, rfl⟩ | ⟨hacc, rfl⟩ | ⟨d, hacc, rfl⟩
    · simp
    · exact ⟨absurd rfl, fun _ => ⟨v, hacc⟩, absurd rfl, absurd rfl, absurd rfl, fun _ => by simp⟩
    · exact ⟨fun _ => ⟨d.m, hacc⟩, absurd rfl, absurd rfl, absurd rfl, absurd rfl, fun _ => by simp⟩
    · exact ⟨absurd rfl, absurd rfl, fun _ => hacc, fun _ => .inl hacc, fun _ => .inr (.inl hacc), fun _ => by simp⟩
    · exact ⟨absurd rfl, absurd rfl, absurd rfl, fun _ => .inr ⟨d, hacc⟩, fun _ => .inr (.inr ⟨d, hacc⟩),
        fun _ => by simp⟩
  · obtain ⟨e, -, rfl⟩ := step_busy_cases hrst hidle hstep
    exact ⟨absurd (afterMicroStep_db e _), absurd (afterMicroStep_bcd e _), absurd (afterMicroStep_cur e _),
      absurd (afterMicroStep_txw e _), fun _ => .inl hidle, fun hp => absurd hp hidle⟩

/-- Settles O49: the step is a micro-step, and the invariant gives the levels of the clock lines at its phase, the shift
stage at the latch's rise and the outputs at its fall. -/
theorem everyPulseIsAnEdge : Obligations.EveryPulseIsAnEdge := by
  intro s s' hinv hbusy hrst hstep
  obtain ⟨e, he, rfl⟩ := step_busy_cases hrst hbusy hstep
  obtain ⟨hsck, hlat⟩ := hinv.clocks
  obtain ⟨-, hout⟩ := hinv.receiver hbusy
  refine ⟨e, afterMicroStep_trace e _, afterMicroStep_sda e _, afterMicroStep_sck e _, afterMicroStep_lat e _, ?_⟩
  rcases microEvent_cases he with
    ⟨h1, h2, -, ⟨hm, rfl⟩ | ⟨hm, rfl⟩ | ⟨hm, rfl⟩⟩ | ⟨hp, -, rfl⟩ | ⟨hp, -, rfl⟩ | ⟨hp, -, rfl⟩
  · simp
  · simp [sck_eq_false hinv.clocks (by omega), lat_eq_false hinv.clocks (by omega)]
  · have hhigh : s.sck = true := by rw [hsck, decide_eq_true_eq]; omega
    simp [hhigh, lat_eq_false hinv.clocks (by omega)]
  · simp [sck_eq_false hinv.clocks (by omega), lat_eq_false hinv.clocks (by omega), sr_eq_txw hinv.receiver (by omega)]
  · simp
  · simp [sck_eq_false hinv.clocks (by omega), hlat, hp, hout (by omega)]

/-- A legal phase of a busy block has a micro-step (R25, R144). -/
theorem step_eq_afterMicroStep {s : State} (hlegal : s.PhaseLegal) (hrst : s.nextInput.rst = false) (hbusy : s.ph ≠ 0) :
    ∃ e, microEvent s.txw s.ph.toNat = some e ∧ step s = .next (afterMicroStep e s.popInput) := by
  obtain ⟨e, he⟩ := microEvent_isSome s.txw (one_le_of_busy hbusy) hlegal
  exact ⟨e, he, (step_of_busy hrst hbusy).trans (microStep_eq he)⟩

/-- A legal phase never stops a step for want of a micro-step (R25). -/
theorem step_ne_phaseOutOfRange {s : State} (hlegal : s.PhaseLegal) : step s ≠ .refused .phaseOutOfRange := by
  intro hstep
  obtain ⟨hrst, ⟨hbusy, -⟩ | ⟨-, -, hreason, -⟩ | ⟨i, ⟨-, hidle, -, hdec⟩, hexec⟩⟩ := step_refused_cases hstep
  · obtain ⟨e, -, hnext⟩ := step_eq_afterMicroStep hlegal hrst hbusy
    rw [hnext] at hstep
    cases hstep
  · cases hreason
  · rcases exec_command_refused (s := s.popInput) (isCommand_of_decode hdec) hidle hexec with
      ⟨hreason, -⟩ | ⟨hreason, -⟩ <;> cases hreason

/-- An idle block leaves phase 0 exactly if it accepts a `TICK` or `REFRESH` (R146, R147). -/
theorem step_idle_ph {s t : State} (hrst : s.nextInput.rst = false) (hidle : s.ph = 0) (hstep : step s = .next t) :
    (t.ph = 1 ∧ (s.Accepts .tick ∨ ∃ i, s.Accepts (.refresh i))) ∨
    (t.ph = 0 ∧ ¬ s.Accepts .tick ∧ ∀ i, ¬ s.Accepts (.refresh i)) := by
  have hstay {j : Instr} (hj : ∀ i, s.Accepts i → i = j) (htick : j ≠ .tick) (hrefresh : ∀ i, j ≠ .refresh i) :
      ¬ s.Accepts .tick ∧ ∀ i, ¬ s.Accepts (.refresh i) :=
    ⟨fun h => htick (hj _ h).symm, fun i h => hrefresh i (hj _ h).symm⟩
  rcases step_idle_cases hrst hidle hstep with
    ⟨hnop, rfl⟩ | ⟨v, hacc, rfl⟩ | ⟨d, p, hacc | hacc, -, rfl⟩ | ⟨hacc, rfl⟩ | ⟨d, hacc, rfl⟩
  · exact .inr ⟨hidle, hstay hnop (by simp) (by simp)⟩
  · exact .inr ⟨hidle, hstay (fun _ h => accepts_unique h hacc) (by simp) (by simp)⟩
  · exact .inr ⟨hidle, hstay (fun _ h => accepts_unique h hacc) (by simp) (by simp)⟩
  · exact .inr ⟨hidle, hstay (fun _ h => accepts_unique h hacc) (by simp) (by simp)⟩
  · exact .inl ⟨rfl, .inl hacc⟩
  · exact .inl ⟨rfl, .inr ⟨d, hacc⟩⟩

/-- Every step ends in a legal phase (R25). -/
theorem step_phaseLegal {s t : State} (hstep : step s = .next t) : t.PhaseLegal := by
  rcases step_next_cases hstep with ⟨-, rfl⟩ | ⟨-, -, e, he, rfl⟩ | ⟨hrst, hidle⟩
  · simp
  · exact afterMicroStep_keeps_phaseLegal (s := s.popInput) he
  · rcases step_idle_ph hrst hidle hstep with ⟨hph, -⟩ | ⟨hph, -⟩ <;> simp [hph, Config.lastStep]

/-- Settles O33: reset ends in phase 0, a busy block of a legal phase has a next micro-step, and an idle block starts a
refresh exactly if it accepts one of the two commands that do. -/
theorem phaseAdvancesThroughTheProgram : Obligations.PhaseAdvancesThroughTheProgram := by
  intro s hlegal
  refine ⟨step_ne_phaseOutOfRange hlegal, fun hrst => ⟨_, step_of_reset hrst, rfl⟩, fun hrst hbusy => ?_,
    fun t hrst hidle => step_idle_ph hrst hidle, fun t => step_phaseLegal⟩
  obtain ⟨e, -, hstep⟩ := step_eq_afterMicroStep hlegal hrst hbusy
  exact ⟨_, hstep, toNat_nextPhase hlegal⟩

end Sys2Proof.Machine
end

section
/-! The two kinds of `RENDER` as one operation, and what it keeps of an earlier one: nothing (R58 (c), R126). -/

namespace Sys2Proof.Machine

/-- Either kind of `RENDER` publishes the rendering of one displayed value, whatever the state (R127, R128). -/
theorem exec_render_eq {v : Word16} {i : Instr} (hi : i = .renderN v ∨ i = .renderP v) :
    ∃ d : DisplayedValue, ∀ s, exec i s = whenReady s (renderAndPublish d s) := by
  rcases hi with rfl | rfl
  · exact ⟨⟨false, v⟩, fun _ => rfl⟩
  · exact ⟨⟨true, v⟩, fun _ => rfl⟩

/-- Rendering writes the buffer and nothing else (R126). -/
theorem renderAndPublish_next {d : DisplayedValue} {s t : State} (h : renderAndPublish d s = .next t) :
    ∃ p, t = publish p s := by
  unfold renderAndPublish at h
  split at h
  · rename_i p _; cases h; exact ⟨p, rfl⟩
  · cases h

/-- A later publish overwrites all of an earlier one (R126). -/
theorem publish_publish (p q : Vector Byte 4) (s : State) : publish q (publish p s) = publish q s := rfl

/-- Rendering does not read the buffer, and overwrites all of it (R125, R126). -/
theorem renderAndPublish_publish (d : DisplayedValue) (p : Vector Byte 4) (s : State) :
    renderAndPublish d (publish p s) = renderAndPublish d s := by
  simp only [renderAndPublish, publish_segTable, publish_publish]

/-- Settles O27: on an idle block the first `RENDER` publishes a buffer, which the second neither reads nor keeps; on a
busy block the first does nothing (R171). -/
theorem lastRenderWins : Obligations.LastRenderWins := by
  intro a b i j s t hi hj hfirst
  obtain ⟨d, hi⟩ := exec_render_eq hi
  obtain ⟨e, hj⟩ := exec_render_eq hj
  by_cases hidle : s.ph = 0
  · rw [hi, whenReady_of_idle hidle] at hfirst
    obtain ⟨p, rfl⟩ := renderAndPublish_next hfirst
    have hidle' : (publish p s).ph = 0 := hidle
    rw [hj, hj, whenReady_of_idle hidle', whenReady_of_idle hidle, renderAndPublish_publish]
  · rw [hi, whenReady_of_busy hidle] at hfirst
    cases hfirst
    rfl

end Sys2Proof.Machine
end

section
/-! SUPPORT. A command word as the fields it is put together from, and the opcode map on such words, a row at a time
(R82 to R85). -/

namespace Sys2Proof

/-- Every command word is put together from its fields (R82). -/
theorem exists_eq_cmdWord (w : CmdWord) : ∃ (op : BitVec 3) (t : BitVec 1) (arg : Word16), w = cmdWord op t arg := by
  refine ⟨opField w, w.extractLsb' 16 1, argField w, BitVec.eq_of_toNat_eq ?_⟩
  have ht : (w.extractLsb' 16 1).toNat = w.toNat / 65536 % 2 := by
    simp [BitVec.extractLsb'_toNat, Nat.shiftRight_eq_div_pow]
  rw [toNat_cmdWord, toNat_opField, toNat_argField, ht]
  omega

/-- A command word determines its fields (R82). -/
theorem cmdWord_inj {op op' : BitVec 3} {t t' : BitVec 1} {arg arg' : Word16}
    (h : cmdWord op t arg = cmdWord op' t' arg') : op = op' ∧ t = t' ∧ arg = arg' := by
  have hnum := congrArg BitVec.toNat h
  rw [toNat_cmdWord, toNat_cmdWord] at hnum
  refine ⟨BitVec.eq_of_toNat_eq ?_, BitVec.eq_of_toNat_eq ?_, BitVec.eq_of_toNat_eq ?_⟩ <;> omega

theorem opField_eq_ofNat (w : CmdWord) : opField w = BitVec.ofNat 3 (w.toNat / 131072) := by
  rw [← toNat_opField, BitVec.ofNat_toNat, BitVec.setWidth_eq]

theorem argField_eq_ofNat (w : CmdWord) : argField w = BitVec.ofNat 16 (w.toNat % 65536) := by
  rw [← toNat_argField, BitVec.ofNat_toNat, BitVec.setWidth_eq]

theorem digitField_eq_ofNat (w : CmdWord) : digitField w = BitVec.ofNat 2 (w.toNat % 4) := by
  rw [← toNat_digitField, BitVec.ofNat_toNat, BitVec.setWidth_eq]

/-- A mask that keeps `op` acts on the tag and the argument apart (R83). -/
theorem cmdWord_and (op : BitVec 3) (t t' : BitVec 1) (arg arg' : Word16) :
    cmdWord op t arg &&& cmdWord 7 t' arg' = cmdWord op (t &&& t') (arg &&& arg') := by
  have hop : op &&& 7 = op := BitVec.and_allOnes
  calc (op ++ t ++ arg) &&& (7 ++ t' ++ arg')
      = ((op ++ t) &&& (7 ++ t')) ++ (arg &&& arg') := BitVec.and_append
    _ = ((op &&& 7) ++ (t &&& t')) ++ (arg &&& arg') := congrArg (· ++ (arg &&& arg')) BitVec.and_append
    _ = op ++ (t &&& t') ++ (arg &&& arg') := by rw [hop]

/-- The mask of the rows that ignore the tag keeps `op` alone (R83). -/
theorem cmdWord_and_opMask (op : BitVec 3) (t : BitVec 1) (arg : Word16) :
    cmdWord op t arg &&& 0xE0000 = cmdWord op 0 0 :=
  (cmdWord_and op t 0 arg 0).trans (by simp)

/-- The mask of the two `RENDER` rows keeps `op` and the tag (R83). -/
theorem cmdWord_and_tagMask (op : BitVec 3) (t : BitVec 1) (arg : Word16) :
    cmdWord op t arg &&& 0xF0000 = cmdWord op t 0 := by
  have ht : t &&& 1 = t := BitVec.and_allOnes
  exact (cmdWord_and op t 1 arg 0).trans (by rw [ht]; simp)

/-- Only the tag cleared, which `ENCODE` ignores (R84). -/
theorem cmdWord_and_encodeMask (op : BitVec 3) (t : BitVec 1) (arg : Word16) :
    cmdWord op t arg &&& 0xEFFFF = cmdWord op 0 arg := by
  have harg : arg &&& 0xFFFF = arg := BitVec.and_allOnes
  exact (cmdWord_and op t 0 arg 0xFFFF).trans (by rw [harg]; simp)

/-- The bits that `REFRESH` ignores cleared: its digit is the low end of the argument (R84). -/
theorem cmdWord_and_refreshMask (op : BitVec 3) (t : BitVec 1) (arg : Word16) :
    cmdWord op t arg &&& 0xE0003 = cmdWord op 0 ((arg.setWidth 2).zeroExtend 16) := by
  have hdigit : arg &&& 3 = (arg.setWidth 2).zeroExtend 16 := by
    apply BitVec.eq_of_toNat_eq
    have hand : (arg &&& 3).toNat = arg.toNat % 4 := Nat.and_two_pow_sub_one_eq_mod arg.toNat 2
    rw [hand]
    simp only [BitVec.toNat_setWidth]
    omega
  exact (cmdWord_and op t 0 arg 3).trans (by rw [hdigit]; simp)

/-- No bit cleared: the `RENDER` rows ignore none (R84). -/
theorem cmdWord_and_renderMask (w : CmdWord) : w &&& 0xFFFFF = w := BitVec.and_allOnes (x := w)

/-- The digit operand is the low end of the argument (R84). -/
@[simp] theorem digitField_cmdWord (op : BitVec 3) (t : BitVec 1) (arg : Word16) :
    digitField (cmdWord op t arg) = arg.setWidth 2 := by
  apply BitVec.eq_of_toNat_eq
  rw [toNat_digitField, toNat_cmdWord, BitVec.toNat_setWidth]
  omega

theorem decodeCommand_nop (t : BitVec 1) (arg : Word16) : decodeCommand (cmdWord 0 t arg) = .ok .nop := by
  simp [decodeCommand]

theorem decodeCommand_encode (t : BitVec 1) (arg : Word16) :
    decodeCommand (cmdWord 1 t arg) = .ok (.encode arg) := by
  simp [decodeCommand]

theorem decodeCommand_renderN (arg : Word16) : decodeCommand (cmdWord 2 0 arg) = .ok (.renderN arg) := by
  simp [decodeCommand]

theorem decodeCommand_renderP (arg : Word16) : decodeCommand (cmdWord 2 1 arg) = .ok (.renderP arg) := by
  simp [decodeCommand]

theorem decodeCommand_tick (t : BitVec 1) (arg : Word16) : decodeCommand (cmdWord 3 t arg) = .ok .tick := by
  simp [decodeCommand]

theorem decodeCommand_refresh (t : BitVec 1) (arg : Word16) :
    decodeCommand (cmdWord 4 t arg) = .ok (.refresh (arg.setWidth 2)) := by
  simp [decodeCommand]

/-- From 0xA0000 on a word has `op` 5, 6 or 7, which no row has (R85 (a)). -/
theorem decodeCommand_of_reserved {w : CmdWord} (h : 0xA0000 ≤ w.toNat) :
    decodeCommand w = .error (.reservedOpcode (opField w)) := by
  have hop : opField w = 5 ∨ opField w = 6 ∨ opField w = 7 := by
    have hlow : 5 ≤ (opField w).toNat := by rw [toNat_opField]; omega
    revert hlow
    generalize opField w = op
    revert op
    decide
  rcases hop with hop | hop | hop <;> simp [decodeCommand, hop]

/-- The rows a command can come from (R83): the word of each, with the bits its row leaves free. -/
theorem decodeCommand_ok_cases {w : CmdWord} {i : Instr} (h : decodeCommand w = .ok i) :
    (∃ t arg, w = cmdWord 0 t arg ∧ i = .nop) ∨
    (∃ t arg, w = cmdWord 1 t arg ∧ i = .encode arg) ∨
    (∃ arg, w = cmdWord 2 0 arg ∧ i = .renderN arg) ∨
    (∃ arg, w = cmdWord 2 1 arg ∧ i = .renderP arg) ∨
    (∃ t arg, w = cmdWord 3 t arg ∧ i = .tick) ∨
    (∃ t arg, w = cmdWord 4 t arg ∧ i = .refresh (arg.setWidth 2)) := by
  by_cases hreserved : 0xA0000 ≤ w.toNat
  · simp [decodeCommand_of_reserved hreserved] at h
  obtain ⟨op, t, arg, rfl⟩ := exists_eq_cmdWord w
  have hop : op = 0 ∨ op = 1 ∨ op = 2 ∨ op = 3 ∨ op = 4 := by
    have hlow : op.toNat < 5 := by rw [toNat_cmdWord] at hreserved; omega
    clear h hreserved
    revert op
    decide
  have hi {j : Instr} (hj : decodeCommand (cmdWord op t arg) = .ok j) : i = j := Except.ok.inj (h.symm.trans hj)
  rcases hop with rfl | rfl | rfl | rfl | rfl
  · exact .inl ⟨t, arg, rfl, hi (decodeCommand_nop t arg)⟩
  · exact .inr (.inl ⟨t, arg, rfl, hi (decodeCommand_encode t arg)⟩)
  · obtain rfl | rfl : t = 0 ∨ t = 1 := BitVec.eq_zero_or_eq_one t
    · exact .inr (.inr (.inl ⟨arg, rfl, hi (decodeCommand_renderN arg)⟩))
    · exact .inr (.inr (.inr (.inl ⟨arg, rfl, hi (decodeCommand_renderP arg)⟩)))
  · exact .inr (.inr (.inr (.inr (.inl ⟨t, arg, rfl, hi (decodeCommand_tick t arg)⟩))))
  · exact .inr (.inr (.inr (.inr (.inr ⟨t, arg, rfl, hi (decodeCommand_refresh t arg)⟩))))

end Sys2Proof
end

section
/-! SUPPORT. A frame as its select byte and its pattern, and the four frames (R78, R79). -/

namespace Sys2Proof

/-- Every 16-bit word is put together from its two bytes (R79). -/
theorem frameOf_fields (w : Word16) : frameOf (selField w) (segField w) = w := by
  apply BitVec.eq_of_toNat_eq
  rw [toNat_frameOf, toNat_selField, toNat_segField]
  omega

theorem selField_eq_ofNat (w : Word16) : selField w = BitVec.ofNat 8 (w.toNat / 256) := by
  rw [← toNat_selField, BitVec.ofNat_toNat, BitVec.setWidth_eq]

theorem segField_eq_ofNat (w : Word16) : segField w = BitVec.ofNat 8 w.toNat := by
  apply BitVec.eq_of_toNat_eq
  rw [toNat_segField, BitVec.toNat_ofNat]

theorem decodeFrame_frameD0 {w : Word16} (h : selField w = 0x80) : decodeFrame w = .ok (.frameD0 (segField w)) := by
  simp [decodeFrame, h]

theorem decodeFrame_frameD1 {w : Word16} (h : selField w = 0x40) : decodeFrame w = .ok (.frameD1 (segField w)) := by
  simp [decodeFrame, h]

theorem decodeFrame_frameD2 {w : Word16} (h : selField w = 0x20) : decodeFrame w = .ok (.frameD2 (segField w)) := by
  simp [decodeFrame, h]

theorem decodeFrame_frameD3 {w : Word16} (h : selField w = 0x10) : decodeFrame w = .ok (.frameD3 (segField w)) := by
  simp [decodeFrame, h]

/-- Any other select byte names no position (R85 (e)). -/
theorem decodeFrame_selectNotOneHot {w : Word16} (h0 : selField w ≠ 0x80) (h1 : selField w ≠ 0x40)
    (h2 : selField w ≠ 0x20) (h3 : selField w ≠ 0x10) : decodeFrame w = .error (.selectNotOneHot (selField w)) := by
  rw [decodeFrame, if_neg h0, if_neg h1, if_neg h2, if_neg h3]

/-- The words a frame can come from (R79). -/
theorem decodeFrame_ok_cases {w : Word16} {i : Instr} (h : decodeFrame w = .ok i) :
    (selField w = 0x80 ∧ i = .frameD0 (segField w)) ∨ (selField w = 0x40 ∧ i = .frameD1 (segField w)) ∨
    (selField w = 0x20 ∧ i = .frameD2 (segField w)) ∨ (selField w = 0x10 ∧ i = .frameD3 (segField w)) := by
  unfold decodeFrame at h
  split_ifs at h with h0 h1 h2 h3
  · exact .inl ⟨h0, (Except.ok.inj h).symm⟩
  · exact .inr (.inl ⟨h1, (Except.ok.inj h).symm⟩)
  · exact .inr (.inr (.inl ⟨h2, (Except.ok.inj h).symm⟩))
  · exact .inr (.inr (.inr ⟨h3, (Except.ok.inj h).symm⟩))

end Sys2Proof
end

section
/-! The two formats: decoding and encoding are inverse up to the ignored bits, in numbers and bits (R79, R82 to R87). -/

namespace Sys2Proof.Machine

/-- Settles O1: each encoded word lies in the row of its instruction, and that row's operand is the one encoded. -/
theorem decodeOfEncodeIsTheInstruction : Obligations.DecodeOfEncodeIsTheInstruction := by
  intro i
  cases i with
  | nop => exact decodeCommand_nop 0 0
  | encode v => exact decodeCommand_encode 0 v
  | renderN v => exact decodeCommand_renderN v
  | renderP p => exact decodeCommand_renderP p
  | tick => exact decodeCommand_tick 0 0
  | refresh d =>
    have hdigit : (d.zeroExtend 16).setWidth 2 = d := by simp
    exact (decodeCommand_refresh 0 (d.zeroExtend 16)).trans (by rw [hdigit])
  | frameD0 seg => exact (decodeFrame_frameD0 (selField_frameOf 0x80 seg)).trans (by rw [segField_frameOf])
  | frameD1 seg => exact (decodeFrame_frameD1 (selField_frameOf 0x40 seg)).trans (by rw [segField_frameOf])
  | frameD2 seg => exact (decodeFrame_frameD2 (selField_frameOf 0x20 seg)).trans (by rw [segField_frameOf])
  | frameD3 seg => exact (decodeFrame_frameD3 (selField_frameOf 0x10 seg)).trans (by rw [segField_frameOf])

/-- Settles O2: in each row the mask keeps `op` and the operand and clears the rest; a frame is its two bytes. -/
theorem encodeOfDecodeClearsIgnoredBits : Obligations.EncodeOfDecodeClearsIgnoredBits := by
  refine ⟨fun w i h => ?_, fun w i h => ?_⟩
  · rcases decodeCommand_ok_cases h with
      ⟨t, arg, rfl, rfl⟩ | ⟨t, arg, rfl, rfl⟩ | ⟨arg, rfl, rfl⟩ | ⟨arg, rfl, rfl⟩ |
      ⟨t, arg, rfl, rfl⟩ | ⟨t, arg, rfl, rfl⟩
    · exact congrArg Encoded.cmd (cmdWord_and_opMask 0 t arg).symm
    · exact congrArg Encoded.cmd (cmdWord_and_encodeMask 1 t arg).symm
    · exact congrArg Encoded.cmd (cmdWord_and_renderMask (cmdWord 2 0 arg)).symm
    · exact congrArg Encoded.cmd (cmdWord_and_renderMask (cmdWord 2 1 arg)).symm
    · exact congrArg Encoded.cmd (cmdWord_and_opMask 3 t arg).symm
    · exact congrArg Encoded.cmd (cmdWord_and_refreshMask 4 t arg).symm
  · have hw := frameOf_fields w
    rcases decodeFrame_ok_cases h with ⟨hsel, rfl⟩ | ⟨hsel, rfl⟩ | ⟨hsel, rfl⟩ | ⟨hsel, rfl⟩
    all_goals
      rw [hsel] at hw
      exact congrArg Encoded.frame hw

/-- Settles O3: masked, a word shows the `op` (and tag) of its row; the operand is the argument's number. -/
theorem commandWordsDecodeByTheOpcodeMap : Obligations.CommandWordsDecodeByTheOpcodeMap := by
  intro w
  rw [← argField_eq_ofNat, ← digitField_eq_ofNat, ← opField_eq_ofNat]
  obtain ⟨op, t, arg, hw⟩ := exists_eq_cmdWord w
  have hop {k : BitVec 3} (h : w &&& 0xE0000 = cmdWord k 0 0) : w = cmdWord k t arg := by
    rw [hw, cmdWord_and_opMask] at h
    obtain ⟨rfl, -, -⟩ := cmdWord_inj h
    exact hw
  have htag {k : BitVec 3} {b : BitVec 1} (h : w &&& 0xF0000 = cmdWord k b 0) : w = cmdWord k b arg := by
    rw [hw, cmdWord_and_tagMask] at h
    obtain ⟨rfl, rfl, -⟩ := cmdWord_inj h
    exact hw
  have harg : argField w = arg := by rw [hw, argField_cmdWord]
  have hdigit : digitField w = arg.setWidth 2 := by rw [hw, digitField_cmdWord]
  rw [harg, hdigit]
  refine ⟨fun h => ?_, fun h => ?_, fun h => ?_, fun h => ?_, fun h => ?_, fun h => ?_, decodeCommand_of_reserved⟩
  · rw [hop (k := 0) h, decodeCommand_nop]
  · rw [hop (k := 1) h, decodeCommand_encode]
  · rw [htag (k := 2) (b := 0) h, decodeCommand_renderN]
  · rw [htag (k := 2) (b := 1) h, decodeCommand_renderP]
  · rw [hop (k := 3) h, decodeCommand_tick]
  · rw [hop (k := 4) h, decodeCommand_refresh]

/-- Settles O4: the high byte is the select byte, the low byte the pattern. -/
theorem frameWordsDecodeByTheirSelectByte : Obligations.FrameWordsDecodeByTheirSelectByte := by
  intro w
  have hsel {c : Byte} : w.toNat / 256 = c.toNat ↔ selField w = c := by rw [← toNat_selField, BitVec.toNat_inj]
  rw [← selField_eq_ofNat, ← segField_eq_ofNat]
  refine ⟨fun h => decodeFrame_frameD0 (hsel.1 h), fun h => decodeFrame_frameD1 (hsel.1 h),
    fun h => decodeFrame_frameD2 (hsel.1 h), fun h => decodeFrame_frameD3 (hsel.1 h), fun h0 h1 h2 h3 => ?_⟩
  exact decodeFrame_selectNotOneHot (mt hsel.2 h0) (mt hsel.2 h1) (mt hsel.2 h2) (mt hsel.2 h3)

/-- Settles O5: each word, its format told by the number of bits, through the decoder of that format. -/
theorem writtenOutWordsDecode : Obligations.WrittenOutWordsDecode := by
  unfold Obligations.WrittenOutWordsDecode
  decide

/-- The number of an encoded command is that of its fields (R87). -/
theorem toNat_cmd_cmdWord (op : BitVec 3) (t : BitVec 1) (arg : Word16) :
    (Encoded.cmd (cmdWord op t arg)).toNat = op.toNat * 131072 + t.toNat * 65536 + arg.toNat :=
  toNat_cmdWord op t arg

/-- Settles O6: `op` and the tag give each row's base number, the operand is added to it. -/
theorem assemblerNumbers : Obligations.AssemblerNumbers := by
  refine ⟨toNat_cmd_cmdWord 0 0 0, fun v => toNat_cmd_cmdWord 1 0 v, fun v => toNat_cmd_cmdWord 2 0 v,
    fun p => toNat_cmd_cmdWord 2 1 p, toNat_cmd_cmdWord 3 0 0, fun i => ?_⟩
  have hdigit : (i.zeroExtend 16).toNat = i.toNat := BitVec.toNat_setWidth_of_le (by decide)
  exact (toNat_cmd_cmdWord 4 0 (i.zeroExtend 16)).trans (by rw [hdigit]; rfl)

/-- The select byte stands above the pattern (R78, R79). -/
theorem frame_eq_or (i : Digit) (p : Byte) : frame i p = ((0x8000 : Word16) >>> i.toNat) ||| p.zeroExtend 16 := by
  have hsel : (0x8000 : Word16) >>> i.toNat = sel i ++ (0 : Byte) := by revert i; decide
  have hseg : p.zeroExtend 16 = (0 : Byte) ++ p := by
    apply BitVec.eq_of_toNat_eq
    rw [toNat_append_eq, BitVec.toNat_setWidth_of_le (by decide)]
    simp
  rw [hsel, hseg, BitVec.or_append]
  simp [frame, frameOf]

/-- Settles O7: the layout of the word, and its fields read back. -/
theorem frameLayout : Obligations.FrameLayout := fun i p =>
  ⟨frame_eq_or i p, selField_frameOf (sel i) p, segField_frameOf (sel i) p, digitOf_sel i⟩

end Sys2Proof.Machine
end

section
/-! A reserved word at the host port (R85 (a), R233). -/

namespace Sys2Proof.Machine

/-- Settles O13: the edge accepts the word (R189 case 3), and no row decodes it. -/
theorem reservedWordIsRefused : Obligations.ReservedWordIsRefused := by
  intro s p rest hin hrst hidle hvalid hreserved
  obtain ⟨rst, cmdValid, w⟩ := p
  cases hrst
  cases hvalid
  have hdec : decodeCommand w = .error (.reservedOpcode (opField w)) := decodeCommand_of_reserved hreserved
  rw [step_of_present (w := w) hidle hin, acceptCommand, hdec]
  rfl

end Sys2Proof.Machine
end

section
/-! What an observer reads off a frame or a pattern: position and segments it lights (R199, R200), its glyph (R89). -/

namespace Sys2Proof.Machine

/-- The high bits of a frame are its select byte's (R79). -/
theorem getLsbD_frame_of_ge (i : Digit) (p : Byte) {n : Nat} (h : 8 ≤ n) :
    (frame i p).getLsbD n = (sel i).getLsbD (n - 8) :=
  BitVec.getLsbD_append.trans (if_neg (by omega))

/-- The low bits of a frame are its pattern's (R79). -/
theorem getLsbD_frame_of_lt (i : Digit) (p : Byte) {n : Nat} (h : n < 8) : (frame i p).getLsbD n = p.getLsbD n :=
  BitVec.getLsbD_append.trans (if_pos h)

/-- A frame activates its own position and no other (R78, R199). -/
theorem active_frame (i j : Digit) (p : Byte) : active (frame i p) j = decide (j = i) := by
  have hsel : ∀ i j : Digit, (sel i).getLsbD (15 - j.toNat - 8) = decide (j = i) := by decide
  rw [active, getLsbD_frame_of_ge i p (by omega), hsel]

theorem segment_bit_lt (x : Segment) : x.bit < 8 := by
  cases x <;> decide

/-- Settles O50: the select byte has one bit, and only in its high half; the segments are the pattern's bits. -/
theorem frameLightsOnePosition : Obligations.FrameLightsOnePosition := by
  intro i j p x
  have hsel : ∀ i : Digit, (sel i).extractLsb' 0 4 = 0 := by decide
  have hunused : (frame i p).extractLsb' 8 4 = (sel i).extractLsb' 0 4 := BitVec.extractLsb'_append_eq_of_le (by decide)
  refine ⟨?_, hunused.trans (hsel i), ?_⟩
  · rw [active_frame, decide_eq_true_iff]
  · rw [lit, active_frame, getLsbD_frame_of_lt i p (segment_bit_lt x), Bool.and_eq_true, decide_eq_true_iff,
      Bool.not_eq_true']

/-- What a pattern can read as (R89): blank, the first entry it is, the overflow entry, or nothing. -/
theorem glyph_cases (t : SegTable) (p : Byte) :
    (p = Config.blank ∧ glyph t p = some .space) ∨
    (p ≠ Config.blank ∧ ∃ n : Fin 10, t[n.val] = p ∧ glyph t p = some (.digit n)) ∨
    (p ≠ Config.blank ∧ (∀ n : Fin 10, t[n.val] ≠ p) ∧ p = t[10] ∧ glyph t p = some .overflow) ∨
    (p ≠ Config.blank ∧ (∀ n : Fin 10, t[n.val] ≠ p) ∧ p ≠ t[10] ∧ glyph t p = none) := by
  by_cases hblank : p = Config.blank
  · exact .inl ⟨hblank, if_pos hblank⟩
  simp only [glyph, if_neg hblank]
  cases hfind : (List.finRange 10).find? (fun n => t[n.val]'(Nat.lt_succ_of_lt n.isLt) = p) with
  | some n => exact .inr (.inl ⟨hblank, n, by simpa using List.find?_some hfind, rfl⟩)
  | none =>
    have hnone : ∀ n : Fin 10, t[n.val] ≠ p := by simpa using hfind
    by_cases hovf : p = t[10]
    · exact .inr (.inr (.inl ⟨hblank, hnone, hovf, if_pos hovf⟩))
    · exact .inr (.inr (.inr ⟨hblank, hnone, hovf, if_neg hovf⟩))

/-- Settles O51: in a legal table the entries differ from one another and from blank, so each has one reading. -/
theorem glyphInvertsTheTable : Obligations.GlyphInvertsTheTable := by
  rintro t ⟨hdistinct, -, hnoBlank⟩
  refine ⟨if_pos rfl, fun n => ?_, ?_, fun p hp => ?_⟩
  · rcases glyph_cases t t[n.val] with ⟨h, -⟩ | ⟨-, m, hm, hglyph⟩ | ⟨-, hne, -⟩ | ⟨-, hne, -⟩
    · exact absurd h (hnoBlank ⟨n.val, by omega⟩)
    · have hmn : m = n := Fin.ext (Fin.mk.inj (hdistinct ⟨m.val, by omega⟩ ⟨n.val, by omega⟩ hm))
      rw [hglyph, hmn]
    · exact absurd rfl (hne n)
    · exact absurd rfl (hne n)
  · rcases glyph_cases t t[10] with ⟨h, -⟩ | ⟨-, m, hm, -⟩ | ⟨-, -, -, hglyph⟩ | ⟨-, -, hne, -⟩
    · exact absurd h (hnoBlank 10)
    · have hm10 : m.val = 10 := Fin.mk.inj (hdistinct ⟨m.val, by omega⟩ 10 hm)
      omega
    · exact hglyph
    · exact absurd rfl hne
  · rcases glyph_cases t p with ⟨h, -⟩ | ⟨-, m, hm, -⟩ | ⟨-, -, h, -⟩ | ⟨-, -, -, hglyph⟩
    · exact absurd (.inl h) hp
    · exact absurd (.inr ⟨⟨m.val, by omega⟩, hm.symm⟩) hp
    · exact absurd (.inr ⟨10, h⟩) hp
    · exact hglyph

end Sys2Proof.Machine
end

section
/-! SUPPORT. The result nibbles as the decimal digits of the bits moved in (R102 (a)), the encoder's result as those of
its operand (R100), and the two answers of `ENCODE` on an idle block (R104). -/

namespace Sys2Proof.Machine

/-- After `n` iterations result nibble `k` is decimal digit `k` of the bits moved in (R102 (a)). -/
theorem nibble_dabble (v : Word16) (n : Nat) (k : Fin 4) :
    (nibble ((dabble n (v.zeroExtend 32)).extractLsb' 16 16) k.val).toNat =
      v.toNat * 2 ^ n / 65536 / 10 ^ k.val % 10 := by
  rw [nibble_packScr (by omega) (by omega) (by omega) (by omega) (by omega) (dabble_pack v n)]
  fin_cases k <;> simp

/-- A word whose nibbles are the last four decimal digits of `n` stands for `n` modulo 10000 (R72). -/
theorem bcdValue_of_digits {b : Word16} {n : Nat} (h : ∀ k : Fin 4, (nibble b k.val).toNat = n / 10 ^ k.val % 10) :
    bcdValue b = n % 10000 := by
  have h3 : (nibble b 3).toNat = n / 1000 % 10 := h 3
  have h2 : (nibble b 2).toNat = n / 100 % 10 := h 2
  have h1 : (nibble b 1).toNat = n / 10 % 10 := h 1
  have h0 : (nibble b 0).toNat = n % 10 := (h 0).trans (by simp)
  rw [bcdValue, h3, h2, h1, h0]
  omega

/-- The bits that `j` shifts move out of a 16-bit field are the top `j` bits. -/
theorem mul_two_pow_div_65536 (x : Nat) {j : Nat} (hj : j ≤ 16) : x * 2 ^ j / 65536 = x / 2 ^ (16 - j) := by
  have hsplit : 65536 = 2 ^ (16 - j) * 2 ^ j := (Nat.pow_sub_mul_pow 2 hj).symm
  rw [hsplit, Nat.mul_div_mul_right _ _ (Nat.two_pow_pos j)]

/-- A thousands digit of at most 4 is not corrected, so bit 31 stays clear (R102 (c)). -/
theorem getLsbD_31_correct_pack {scr : Word32} {d3 d2 d1 d0 x : Nat} (h3 : d3 ≤ 4) (h2 : d2 ≤ 9) (h1 : d1 ≤ 9)
    (h0 : d0 ≤ 9) (hx : x < 65536) (h : scr.toNat = packScr d3 d2 d1 d0 x) : (correct scr).getLsbD 31 = false := by
  have hcorrect := correct_pack (by omega) h2 h1 h0 hx h
  have huncorrected : d3 / 5 = 0 := by omega
  have hsmall : (correct scr).toNat < 2 ^ 31 := by
    rw [hcorrect, huncorrected]
    simp only [packScr]
    omega
  exact Nat.testBit_lt_two_pow hsmall

/-- Nibble `k` of the encoder's result is decimal digit `k` of the operand (R100, R101). -/
theorem nibble_encodeBcd (v : Word16) (k : Fin 4) :
    (nibble (encodeBcd v) k.val).toNat = v.toNat / 10 ^ k.val % 10 := by
  calc (nibble (encodeBcd v) k.val).toNat
      _ = v.toNat * 2 ^ 16 / 65536 / 10 ^ k.val % 10 := nibble_dabble v Config.nIter k
      _ = v.toNat / 10 ^ k.val % 10 := by rw [mul_two_pow_div_65536 _ (le_refl 16), Nat.sub_self, pow_zero, Nat.div_one]

theorem exceedsMax_iff (m : Word16) : exceedsMax m = true ↔ 9999 < m.toNat := decide_eq_true_iff

/-- `ENCODE` on its range (R104). -/
theorem exec_encode_of_le {v : Word16} {s : State} (hidle : s.ph = 0) (hv : v.toNat ≤ 9999) :
    exec (.encode v) s = .next (setBcd (encodeBcd v) s) := by
  have hrange : ¬ exceedsMax v = true := by rw [exceedsMax_iff]; omega
  exact (whenReady_of_idle hidle _).trans (if_neg hrange)

/-- `ENCODE` above its range (R103). -/
theorem exec_encode_of_gt {v : Word16} {s : State} (hidle : s.ph = 0) (hv : 9999 < v.toNat) :
    exec (.encode v) s = .refused .encoderInputOutOfRange :=
  (whenReady_of_idle hidle _).trans (if_pos ((exceedsMax_iff v).mpr hv))

end Sys2Proof.Machine
end

section
/-! The encoder and its command (R100 to R104). -/

namespace Sys2Proof.Machine

/-- Settles O16: the nibbles are the operand's last four decimal digits, and up to 9999 those are all of it. -/
theorem encoderIsExactOnItsRange : Obligations.EncoderIsExactOnItsRange := by
  intro v hv
  refine ⟨?_, nibble_encodeBcd_le v⟩
  calc bcdValue (encodeBcd v)
      _ = v.toNat % 10000 := bcdValue_of_digits (nibble_encodeBcd v)
      _ = v.toNat := Nat.mod_eq_of_lt (by omega)

/-- Settles O17: the invariant `dabble_pack`, its first `j` bits as a quotient; for a value up to 9999 and `j` below 16
that quotient is below 5000, so the thousands digit is at most 4. -/
theorem doubleDabbleLoop : Obligations.DoubleDabbleLoop := by
  intro v j hj
  have hdigits := nibble_dabble v j
  refine ⟨?_, fun k => ?_, fun hv hlt => ?_⟩
  · rw [bcdValue_of_digits hdigits, mul_two_pow_div_65536 _ hj]
  · rw [hdigits k]
    omega
  · have hpow : 2 ^ j ≤ 2 ^ 15 := Nat.pow_le_pow_right (by omega) (by omega)
    have htop : v.toNat * 2 ^ j ≤ 9999 * 2 ^ 15 := Nat.mul_le_mul hv hpow
    exact getLsbD_31_correct_pack (by omega) (by omega) (by omega) (by omega) (by omega) (dabble_pack v j)

/-- Settles O19: the digits are those of `nibble_encodeBcd`; up to 9999 the thousands need no remainder. -/
theorem encodeCompletes : Obligations.EncodeCompletes := by
  intro v s hidle hv
  refine ⟨encodeBcd v, exec_encode_of_le hidle hv, ?_, nibble_encodeBcd v 2, nibble_encodeBcd v 1,
    (nibble_encodeBcd v 0).trans (by simp)⟩
  exact (nibble_encodeBcd v 3).trans (Nat.mod_eq_of_lt (by simp; omega))

/-- Settles O20: the range test of R104 precedes the write. -/
theorem encodeOutOfRangeIsRefused : Obligations.EncodeOutOfRangeIsRefused := fun _ _ => exec_encode_of_gt

end Sys2Proof.Machine
end

section
/-! SUPPORT. The renderer in closed form: what `render` answers for every displayed value (R121 to R123), and what a pattern
it writes reads as (R89). -/

namespace Sys2Proof.Machine

/-- Position `k` of the buffer rendered from the magnitude `m`: the overflow entry above 9999, else the digit of weight
`10^k`, blank where that digit and every more significant one is zero and `k` is not 0 (R121 to R123). -/
def renderedPattern (t : SegTable) (m k : Nat) : Byte :=
  if 9999 < m then t[10]
  else if k = 0 ∨ 10 ^ k ≤ m then t[m / 10 ^ k % 10]'(by omega) else Config.blank

/-- The four patterns rendered from the magnitude `m`. -/
def renderedBuffer (t : SegTable) (m : Nat) : Vector Byte 4 :=
  #v[renderedPattern t m 0, renderedPattern t m 1, renderedPattern t m 2, renderedPattern t m 3]

theorem getElem_renderedBuffer (t : SegTable) (m : Nat) (k : Fin 4) :
    (renderedBuffer t m)[k] = renderedPattern t m k.val := by
  fin_cases k <;> rfl

theorem renderedPattern_of_gt {m : Nat} (t : SegTable) (k : Nat) (hm : 9999 < m) : renderedPattern t m k = t[10] :=
  if_pos hm

theorem renderedPattern_of_le {m : Nat} (t : SegTable) (k : Nat) (hm : m ≤ 9999) :
    renderedPattern t m k =
      if k = 0 ∨ 10 ^ k ≤ m then t[m / 10 ^ k % 10]'(by omega) else Config.blank :=
  if_neg (by omega)

theorem lutRead_of_lt (t : SegTable) {n : Nat} (hn : n < 11) : lutRead t n = some t[n] := Vector.getElem?_eq_getElem hn

/-- From the digit of weight `10^k` up, some digit is not zero exactly when the number is at least `10^k`. -/
theorem digit_ne_zero_or_pow_succ_le_iff (m k : Nat) : (m / 10 ^ k % 10 ≠ 0 ∨ 10 ^ (k + 1) ≤ m) ↔ 10 ^ k ≤ m := by
  have hpos : 0 < 10 ^ k := Nat.pow_pos (by decide)
  have hthis : 10 ^ k ≤ m ↔ 1 ≤ m / 10 ^ k := by rw [Nat.le_div_iff_mul_le hpos, one_mul]
  have hnext : 10 ^ (k + 1) ≤ m ↔ 10 ≤ m / 10 ^ k := by rw [Nat.le_div_iff_mul_le hpos, pow_succ, mul_comm]
  rw [hthis, hnext]
  generalize m / 10 ^ k = q
  omega

/-- One position of the scan: if "a digit has been shown" says that the number reaches into the positions above, the
position draws exactly when the number reaches into it, and says so to the next one (R122). -/
theorem scanPosition_digit (t : SegTable) {n : Nibble} {m k : Nat} (hn : n.toNat = m / 10 ^ k % 10) :
    scanPosition t n (decide (10 ^ (k + 1) ≤ m)) =
      some (if 10 ^ k ≤ m then t[m / 10 ^ k % 10]'(by omega) else Config.blank, decide (10 ^ k ≤ m)) := by
  have hzero : n ≠ 0 ↔ m / 10 ^ k % 10 ≠ 0 := by rw [← hn]; exact BitVec.toNat_inj.symm.not
  have hdrawn : (n ≠ 0 ∨ decide (10 ^ (k + 1) ≤ m) = true) ↔ 10 ^ k ≤ m := by
    rw [hzero, decide_eq_true_iff, digit_ne_zero_or_pow_succ_le_iff]
  by_cases hk : 10 ^ k ≤ m
  · rw [scanPosition, if_pos (hdrawn.mpr hk), hn, lutRead_of_lt t (by omega), if_pos hk, decide_eq_true hk]
    rfl
  · rw [scanPosition, if_neg (mt hdrawn.mp hk), if_neg hk, decide_eq_false hk]

/-- The scan of the encoder's result (R122); if it ends with no digit shown, the value is 0, and the zero clause draws
entry 0 (R123). -/
theorem renderDigits_encodeBcd (t : SegTable) {v : Word16} (hv : v.toNat ≤ 9999) :
    renderDigits t (encodeBcd v) = some (renderedBuffer t v.toNat) := by
  have hscan (k : Fin 4) := scanPosition_digit t (nibble_encodeBcd v k)
  have hstart : decide (10 ^ 4 ≤ v.toNat) = false := decide_eq_false (by omega)
  simp only [renderDigits, Option.bind_eq_bind, Option.bind_eq_some_iff]
  rw [← hstart]
  refine ⟨_, hscan 3, _, hscan 2, _, hscan 1, _, hscan 0, ?_⟩
  simp only [renderedBuffer, renderedPattern_of_le t _ hv]
  rcases Nat.eq_zero_or_pos v.toNat with hzero | hpos
  · simp [hzero, lutRead_of_lt]
  · simp [Nat.one_le_iff_ne_zero.mpr hpos.ne']

/-- What `render` answers: four patterns, for every table and every displayed value; the tag is not read (R121 to R123,
R125). -/
theorem render_eq (t : SegTable) (d : DisplayedValue) : render t d = some (renderedBuffer t d.m.toNat) := by
  by_cases hm : 9999 < d.m.toNat
  · rw [render, if_pos ((exceedsMax_iff _).mpr hm), Config.ovfIdx, lutRead_of_lt t (by decide)]
    simp only [renderedBuffer, renderedPattern_of_gt t _ hm, Option.map_some]
  · rw [render, if_neg (mt (exceedsMax_iff _).mp hm)]
    exact renderDigits_encodeBcd t (by omega)

/-- An accepted `RENDER` of either kind publishes the patterns of its operand (R127, R128). -/
theorem exec_render_of_idle {v : Word16} {i : Instr} {s : State} (hi : i = .renderN v ∨ i = .renderP v)
    (hidle : s.ph = 0) : exec i s = .next (publish (renderedBuffer s.segTable v.toNat) s) := by
  rcases hi with rfl | rfl <;>
    exact (whenReady_of_idle hidle _).trans (by rw [renderAndPublish, render_eq])

/-- In a legal table no entry is blank, so a position is blank exactly where the number does not reach into it (R75 (e),
R129 (b), (c)). -/
theorem renderedPattern_ne_blank_iff {t : SegTable} (hnoBlank : t.NoBlank) (m : Nat) {k : Nat} (hk : k < 4) :
    renderedPattern t m k ≠ Config.blank ↔ (k = 0 ∨ 10 ^ k ≤ m) := by
  by_cases hm : 9999 < m
  · have hpow : 10 ^ k ≤ 10 ^ 3 := Nat.pow_le_pow_right (by decide) (by omega)
    rw [renderedPattern_of_gt t k hm]
    exact iff_of_true (hnoBlank 10) (.inr (by omega))
  · rw [renderedPattern_of_le t k (by omega)]
    split_ifs with hdrawn
    · exact iff_of_true (hnoBlank ⟨m / 10 ^ k % 10, by omega⟩) hdrawn
    · exact iff_of_false (fun hne => hne rfl) hdrawn

/-- What position `k` of a decimal numeral of `m` shows, counted from the right: its digit, or a space beyond its length. -/
def numeralGlyph (m k : Nat) : Glyph :=
  if k = 0 ∨ 10 ^ k ≤ m then .digit (Fin.ofNat 10 (m / 10 ^ k)) else .space

theorem readLeftToRight_renderedBuffer (t : SegTable) (m : Nat) :
    readLeftToRight t (renderedBuffer t m) = (List.range 4).map (fun i => glyph t (renderedPattern t m (3 - i))) :=
  rfl

/-- Up to 9999 a rendered pattern reads as the glyph of the numeral in its place (R129 (a)). -/
theorem glyph_renderedPattern_of_le {t : SegTable} (hlegal : t.Legal) {m : Nat} (hm : m ≤ 9999) (k : Nat) :
    glyph t (renderedPattern t m k) = some (numeralGlyph m k) := by
  obtain ⟨hspace, hdigit, -, -⟩ := glyphInvertsTheTable t hlegal
  rw [renderedPattern_of_le t k hm, numeralGlyph]
  split_ifs with hdrawn
  · exact hdigit (Fin.ofNat 10 (m / 10 ^ k))
  · exact hspace

/-- The digits a numeral of `m` shows, least significant first: for 0 a single 0. -/
def numeralDigits (m : Nat) : List Nat := if m = 0 then [0] else Nat.digits 10 m

theorem numeral_eq_numeralDigits (m : Nat) :
    numeral m = List.replicate (4 - (numeralDigits m).length) .space ++
      (numeralDigits m).reverse.map (fun n => .digit (Fin.ofNat 10 n)) := by
  by_cases hm : m = 0
  · subst hm; rfl
  · simp [numeral, numeralDigits, hm]

theorem lt_length_numeralDigits_iff (m k : Nat) : k < (numeralDigits m).length ↔ (k = 0 ∨ 10 ^ k ≤ m) := by
  by_cases hm : m = 0
  · simp [numeralDigits, hm]
  · have hone : 10 ^ 0 ≤ m := by omega
    rw [numeralDigits, if_neg hm, Nat.lt_digits_length_iff (by decide)]
    exact ⟨.inr, fun h => h.elim (fun hk => hk ▸ hone) id⟩

theorem getElem_numeralDigits {m k : Nat} (hk : k < (numeralDigits m).length) :
    (numeralDigits m)[k] = m / 10 ^ k % 10 := by
  by_cases hm : m = 0
  · simp [numeralDigits, hm]
  · simp only [numeralDigits, if_neg hm] at hk ⊢
    rw [← Nat.getD_digits m k (by decide), List.getD_eq_getElem _ _ hk]

/-- Up to 9999 the numeral padded to four places shows in each place the glyph of that place. -/
theorem numeral_eq_map_numeralGlyph {m : Nat} (hm : m ≤ 9999) :
    numeral m = (List.range 4).map (fun i => numeralGlyph m (3 - i)) := by
  have hlength : (numeralDigits m).length ≤ 4 := by
    have h4 := (lt_length_numeralDigits_iff m 4).not
    omega
  rw [numeral_eq_numeralDigits]
  refine List.ext_getElem (by simp; omega) fun i hi _ => ?_
  have hreach := lt_length_numeralDigits_iff m (3 - i)
  rw [List.getElem_map, List.getElem_range, numeralGlyph]
  by_cases hdrawn : 3 - i = 0 ∨ 10 ^ (3 - i) ≤ m
  · have hlt := hreach.mpr hdrawn
    have hindex : (numeralDigits m).length - 1 - (i - (4 - (numeralDigits m).length)) = 3 - i := by omega
    rw [List.getElem_append_right (by simp; omega), if_pos hdrawn]
    simp only [List.length_replicate, List.getElem_map, List.getElem_reverse, hindex, getElem_numeralDigits]
    exact congrArg Glyph.digit (Fin.ext (Nat.mod_mod _ 10))
  · have hge := mt hreach.mp hdrawn
    rw [List.getElem_append_left (by simp; omega), List.getElem_replicate, if_neg hdrawn]

end Sys2Proof.Machine
end

section
/-! The renderer and its two commands (R121 to R129). -/

namespace Sys2Proof.Machine

/-- Settles O21: the overflow branch of the closed form in all four positions. -/
theorem renderOverflowClause : Obligations.RenderOverflowClause := by
  intro t d hm
  rw [render_eq, renderedBuffer]
  simp only [renderedPattern_of_gt t _ hm]

/-- Settles O22: the other branch of the closed form, at each position. -/
theorem renderInRangeClause : Obligations.RenderInRangeClause := fun t d hm =>
  ⟨_, render_eq t d, fun k => (getElem_renderedBuffer t _ k).trans (renderedPattern_of_le t k hm)⟩

/-- Settles O23: `publish` writes the buffer alone, and the closed form is the statement's. -/
theorem renderNumberCompletes : Obligations.RenderNumberCompletes := fun v s hidle =>
  ⟨_, exec_render_of_idle (v := v) (.inl rfl) hidle, getElem_renderedBuffer s.segTable _⟩

/-- Settles O24: the tag is not read, so both kinds publish one buffer. -/
theorem renderPercentCompletes : Obligations.RenderPercentCompletes := fun p s hidle =>
  ⟨_, exec_render_of_idle (v := p) (.inr rfl) hidle, exec_render_of_idle (.inl rfl) hidle,
    getElem_renderedBuffer s.segTable _⟩

/-- Settles O25: each pattern reads as the glyph of its place, in the numeral or in four overflow glyphs. -/
theorem renderedBufferReadsAsDecimal : Obligations.RenderedBufferReadsAsDecimal := by
  intro t d hlegal
  refine ⟨_, render_eq t d, ?_⟩
  rw [readLeftToRight_renderedBuffer]
  split_ifs with hm
  · rw [numeral_eq_map_numeralGlyph hm, List.map_map]
    exact List.map_congr_left fun i _ => glyph_renderedPattern_of_le hlegal hm (3 - i)
  · obtain ⟨-, -, hoverflow, -⟩ := glyphInvertsTheTable t hlegal
    simp only [renderedPattern_of_gt t _ (not_le.mp hm), hoverflow, List.map_const', List.length_range]

/-- Settles O26: a position's pattern is blank exactly where the closed form says so, no entry being blank. -/
theorem renderedPositionsAreContiguous : Obligations.RenderedPositionsAreContiguous := by
  rintro t d ⟨-, -, hnoBlank⟩
  refine ⟨_, render_eq t d, fun k => ?_⟩
  rw [getElem_renderedBuffer]
  exact renderedPattern_ne_blank_iff hnoBlank _ k.isLt

end Sys2Proof.Machine
end

section
/-! The two commands of the refresh driver and the four frames, one edge at a time (R144 to R147). -/

namespace Sys2Proof.Machine

/-- `REFRESH` on an idle block (R146). -/
theorem exec_refresh_of_idle {s : State} (i : Digit) (hidle : s.ph = 0) :
    exec (.refresh i) s = .next (startRefresh i s) := whenReady_of_idle hidle _

/-- `TICK` on an idle block (R147). -/
theorem exec_tick_of_idle {s : State} (hidle : s.ph = 0) :
    exec .tick s = .next (startRefresh (s.cur + 1) (advanceCursor s)) := whenReady_of_idle hidle _

/-- The start of a refresh with the word in the layout of R79. -/
theorem startRefresh_eq (i : Digit) (s : State) :
    startRefresh i s =
      { s with txw := ((0x8000 : Word16) >>> i.toNat) ||| (dbsRead s i).zeroExtend 16, ph := 1 } := by
  rw [← frame_eq_or]
  rfl

/-- Settles O28: an idle block starts the refresh, and the word built is the select bit above the pattern. -/
theorem refreshCompletes : Obligations.RefreshCompletes := by
  intro i s hidle
  rw [exec_refresh_of_idle i hidle, startRefresh_eq]

/-- Settles O29: as for `REFRESH`, of the new digit; the cursor is a 2-bit register, so it counts modulo 4. -/
theorem tickCompletes : Obligations.TickCompletes := by
  intro s hidle
  refine ⟨s.cur + 1, BitVec.toNat_add s.cur 1, ?_⟩
  rw [exec_tick_of_idle hidle, startRefresh_eq]
  rfl

/-- A word is the frame of a digit if it is so as a number (R79). -/
theorem frame_eq_of_toNat {i : Digit} {p : Byte} {w : Word16} (h : w.toNat = (sel i).toNat * 256 + p.toNat) :
    frame i p = w := BitVec.eq_of_toNat_eq ((toNat_frameOf (sel i) p).trans h.symm)

/-- The micro-step program read from its end: the latch pulse, then the three events of each bit by the phase modulo 3
(R144). -/
theorem microEvent_eq_ite {w : Word16} {p : Nat} (h1 : 1 ≤ p) (h51 : p ≤ 51) :
    microEvent w p = some
      (if p = 51 then .pin .lat false
       else if p = 50 then .nop
       else if p = 49 then .pin .lat true
       else if p % 3 = 1 then .pin .sda (w.getLsbD (15 - (p - 1) / 3))
       else .pin .sck (decide (p % 3 = 2))) := by
  have hp : p = 51 ∨ p = 50 ∨ p = 49 ∨ p ≤ 48 := by omega
  rcases hp with rfl | rfl | rfl | h48
  · exact microEvent_51
  · exact microEvent_50
  · exact microEvent_49
  · rw [if_neg (by omega), if_neg (by omega), if_neg (by omega)]
    have hmod : p % 3 = 1 ∨ p % 3 = 2 ∨ p % 3 = 0 := by omega
    rcases hmod with hm | hm | hm
    · rw [microEvent_sda h1 h48 hm, if_pos hm, txBit]
    · rw [microEvent_rise h1 h48 hm, hm]; rfl
    · rw [microEvent_fall h1 h48 hm, hm]; rfl

/-- The next phase in closed form (R144). -/
theorem nextPhase_eq_ofNat {ph : Phase} (h : ph.toNat ≤ 51) :
    nextPhase ph = BitVec.ofNat 6 ((ph.toNat + 1) % 52) := by
  revert ph; decide

/-- Settles O31: the frame's share of an edge is the micro-step of its word, whose event and next phase are these. -/
theorem framesCompleteTheirMicroSteps : Obligations.FramesCompleteTheirMicroSteps := by
  intro seg s i w hi h1 h51
  have hbusy : s.ph ≠ 0 := fun h0 => by simp [h0] at h1
  have hsend : exec i s = sendFrame w s := by
    rcases hi with ⟨rfl, hw⟩ | ⟨rfl, hw⟩ | ⟨rfl, hw⟩ | ⟨rfl, hw⟩
    · exact congrArg (sendFrame · s) (frame_eq_of_toNat (i := 0) hw)
    · exact congrArg (sendFrame · s) (frame_eq_of_toNat (i := 1) hw)
    · exact congrArg (sendFrame · s) (frame_eq_of_toNat (i := 2) hw)
    · exact congrArg (sendFrame · s) (frame_eq_of_toNat (i := 3) hw)
  rw [hsend, sendFrame_of_busy hbusy, microStep_eq (microEvent_eq_ite h1 h51), nextPhase_eq_ofNat h51]

/-- Settles O32: an idle block sends nothing. -/
theorem framesDoNothingWhileIdle : Obligations.FramesDoNothingWhileIdle := fun seg _ hidle =>
  ⟨sendFrame_of_idle hidle (frame 0 seg), sendFrame_of_idle hidle (frame 1 seg),
    sendFrame_of_idle hidle (frame 2 seg), sendFrame_of_idle hidle (frame 3 seg)⟩

end Sys2Proof.Machine
end

section
/-! A whole transfer: its trace, and the receiver along it (R149, R151, R152). -/

namespace Sys2Proof.Machine

/-- Settles O35: 51 edges emit the whole trace of the word in `TXW`. -/
theorem transferAppendsExactlyItsTrace : Obligations.TransferAppendsExactlyItsTrace := by
  intro s hph hrst
  refine ⟨duringTransfer 51 s, run_transfer hph hrst (le_refl 51), rfl, ?_⟩
  rw [List.append_assoc]
  exact emitAll_trace (traceOf s.txw) s

/-- Without a rising latch clock the outputs stay (R197). -/
theorem emitAll_out_of_no_latch {es : List Event} (h : .pin .lat true ∉ es) (s : State) :
    (emitAll es s).out = s.out := by
  induction es generalizing s with
  | nil => rfl
  | cons e es ih =>
    rw [List.mem_cons, not_or] at h
    obtain ⟨hne, hes⟩ := h
    rw [emitAll_cons, ih hes, emit_out, receive_out, if_neg fun hlatch => hne hlatch.1.symm]

/-- The bit events do not touch the latch clock (R142). -/
theorem latch_not_mem_bits (w : Word16) (j : Nat) : .pin .lat true ∉ (List.range j).flatMap (bitEvents w) := by
  simp [bitEvents]

/-- The first 48 events of the trace are those of the sixteen bits (R149). -/
theorem take_48_traceOf (w : Word16) : (traceOf w).take 48 = (List.range 16).flatMap (bitEvents w) := rfl

/-- After all sixteen bits the shift stage is the word; the outputs and the latch line are as before (R151). -/
theorem emitAll_sixteen_bits {s : State} (w : Word16) (hsck : s.sck = false) :
    (emitAll ((List.range 16).flatMap (bitEvents w)) s).sr = w ∧
    (emitAll ((List.range 16).flatMap (bitEvents w)) s).lat = s.lat := by
  obtain ⟨d, r, hemit, hr, -⟩ := emitAll_bits w hsck (le_refl 16)
  have hword : r = w := BitVec.eq_of_toNat_eq (by omega)
  rw [hemit]
  exact ⟨hword, rfl⟩

/-- The shift stage is the word from micro-step 47 on: the one after it only lowers the shift clock (R151, R196). -/
theorem duringTransfer_47_sr {s : State} (hsck : s.sck = false) : (duringTransfer 47 s).sr = s.txw := by
  have hlast : (traceOf s.txw).take 48 = (traceOf s.txw).take 47 ++ [.pin .sck false] := rfl
  obtain ⟨hbits, -⟩ := emitAll_sixteen_bits s.txw hsck
  rw [← take_48_traceOf, hlast, emitAll_append, emitAll_cons, emitAll_nil, emit_sr, receive_sr,
    if_neg (by simp)] at hbits
  exact hbits

/-- Through micro-step 48 the outputs keep what they held (R151). -/
theorem duringTransfer_out_of_le {s : State} {n : Nat} (hn : n ≤ 48) : (duringTransfer n s).out = s.out := by
  have hprefix : (traceOf s.txw).take n ⊆ (traceOf s.txw).take 48 := (List.take_prefix_take_left hn).subset
  exact emitAll_out_of_no_latch (fun hmem => latch_not_mem_bits s.txw 16 (hprefix hmem)) s

/-- Micro-step 49 latches the word (R151, R197). -/
theorem duringTransfer_49_out {s : State} (hsck : s.sck = false) (hlat : s.lat = false) :
    (duringTransfer 49 s).out = s.txw := by
  obtain ⟨hsr, hlow⟩ := emitAll_sixteen_bits s.txw hsck
  have hrise : (traceOf s.txw).take 49 = (List.range 16).flatMap (bitEvents s.txw) ++ [.pin .lat true] := rfl
  change (emitAll ((traceOf s.txw).take 49) s).out = s.txw
  rw [hrise, emitAll_append, emitAll_cons, emitAll_nil, emit_out, receive_out, if_pos ⟨rfl, hlow.trans hlat⟩, hsr]

/-- Settles O36: the receiver at its three points along the transfer, and the whole transfer as one transition. -/
theorem transferFillsTheReceiver : Obligations.TransferFillsTheReceiver := by
  intro s hph hsck hlat hrst
  have hrun {n : Nat} (hn : n ≤ 51) := run_transfer hph hrst hn
  exact ⟨⟨_, hrun (by omega), duringTransfer_47_sr hsck⟩,
    fun n hn => ⟨_, hrun (by omega), duringTransfer_out_of_le hn⟩,
    ⟨_, hrun (by omega), duringTransfer_49_out hsck hlat⟩,
    run_completeTransfer hph hsck hlat hrst⟩

end Sys2Proof.Machine
end

section
/-! Ticks at the operation level: each shows one digit, and four of them the whole buffer (R147, R148, R201). -/

namespace Sys2Proof.Machine

/-- The state after one `TICK` and its whole transfer (R147, R149). -/
def afterTick (s : State) : State :=
  completeTransfer (frame (s.cur + 1) (dbsRead s (s.cur + 1))) (startRefresh (s.cur + 1) (advanceCursor s))

@[simp] theorem afterTick_ph (s : State) : (afterTick s).ph = 0 := rfl
@[simp] theorem afterTick_cur (s : State) : (afterTick s).cur = s.cur + 1 := rfl
@[simp] theorem afterTick_db (s : State) : (afterTick s).db = s.db := rfl
@[simp] theorem dbsRead_afterTick (s : State) (i : Digit) : dbsRead (afterTick s) i = dbsRead s i := rfl
@[simp] theorem afterTick_trace (s : State) :
    (afterTick s).trace = s.trace ++ traceOf (frame (s.cur + 1) (dbsRead s (s.cur + 1))) := rfl

theorem quiet_afterTick (s : State) : (afterTick s).Quiet := ⟨rfl, rfl, rfl⟩

/-- A tick shows the buffer's entry at the position of the new digit and leaves the other positions alone (R201). -/
@[simp] theorem afterTick_seen (s : State) (i : Digit) :
    (afterTick s).seen[i.toNat]'(i.isLt) =
      if i = s.cur + 1 then some (dbsRead s i) else s.seen[i.toNat]'(i.isLt) := by
  have hseen : (afterTick s).seen =
      s.seen.set (s.cur + 1).toNat (some (dbsRead s (s.cur + 1))) (s.cur + 1).isLt := seenAfterLatch_frame _ _ _
  simp only [hseen, Vector.getElem_set, BitVec.toNat_inj, eq_comm (a := i)]
  split_ifs with hi
  · rw [hi]
  · rfl

/-- An accepted `TICK` at the operation level (R6, R147). -/
theorem opCommand_tick {s : State} (hidle : s.ph = 0) : opCommand 0x60000 s = .next (afterTick s) := by
  have hdec : decodeCommand 0x60000 = .ok .tick := decodeCommand_tick 0 0
  have hacc : acceptCommand 0x60000 s = .next (startRefresh (s.cur + 1) (advanceCursor s)) := by
    rw [acceptCommand, hdec]
    exact exec_tick_of_idle hidle
  rw [opCommand, hacc]
  rfl

/-- A `TICK` at the head of a stream (R6). -/
theorem opRun_tick_cons {s : State} (ws : List CmdWord) (hidle : s.ph = 0) :
    opRun (0x60000 :: ws) s = opRun ws (afterTick s) := by
  rw [opRun, opCommand_tick hidle]

/-- The state after four ticks and their transfers (R148). -/
def afterFourTicks (s : State) : State := afterTick (afterTick (afterTick (afterTick s)))

theorem opRun_fourTicks {s : State} (hidle : s.ph = 0) :
    opRun [0x60000, 0x60000, 0x60000, 0x60000] s = .next (afterFourTicks s) := by
  rw [opRun_tick_cons _ hidle, opRun_tick_cons _ (afterTick_ph _), opRun_tick_cons _ (afterTick_ph _),
    opRun_tick_cons _ (afterTick_ph _), opRun, afterFourTicks]

/-- Counting modulo 4 passes through every digit and comes back after four steps (R23). -/
theorem digit_add_one (c : Digit) : c + 1 + 1 = c + 2 ∧ c + 2 + 1 = c + 3 ∧ c + 3 + 1 = c := by
  revert c; decide

theorem digit_cases (c i : Digit) : i = c ∨ i = c + 3 ∨ i = c + 2 ∨ i = c + 1 := by
  revert c i; decide

/-- After four ticks the cursor is back (R148). -/
theorem afterFourTicks_cur (s : State) : (afterFourTicks s).cur = s.cur := by
  obtain ⟨h2, h3, h4⟩ := digit_add_one s.cur
  simp only [afterFourTicks, afterTick_cur, h2, h3, h4]

theorem afterFourTicks_db (s : State) : (afterFourTicks s).db = s.db := by
  simp only [afterFourTicks, afterTick_db]

/-- Four ticks send the four frames in cyclic order, that of the digit the cursor stood at last (R148). -/
theorem afterFourTicks_trace (s : State) :
    (afterFourTicks s).trace = s.trace ++ traceOf (frame (s.cur + 1) (dbsRead s (s.cur + 1)))
      ++ traceOf (frame (s.cur + 2) (dbsRead s (s.cur + 2)))
      ++ traceOf (frame (s.cur + 3) (dbsRead s (s.cur + 3))) ++ traceOf (frame s.cur (dbsRead s s.cur)) := by
  obtain ⟨h2, h3, h4⟩ := digit_add_one s.cur
  simp only [afterFourTicks, afterTick_trace, afterTick_cur, dbsRead_afterTick, h2, h3, h4]

/-- After four ticks every position has shown its entry of the buffer (R148, R201). -/
theorem afterFourTicks_seen (s : State) (i : Digit) :
    (afterFourTicks s).seen[i.toNat]'(i.isLt) = some (dbsRead s i) := by
  obtain ⟨h2, h3, h4⟩ := digit_add_one s.cur
  simp only [afterFourTicks, afterTick_seen, afterTick_cur, dbsRead_afterTick, h2, h3, h4]
  simp only [← ite_or, if_pos (digit_cases s.cur i)]

/-- Settles O40: the clock level is the operation level, where the stream is four ticks. -/
theorem fourTicksShowTheWholeBuffer : Obligations.FourTicksShowTheWholeBuffer := by
  intro s hquiet hin
  have hrun : Sys2Proof.core.run s.inputs.length s = .next (afterFourTicks (s.withInputs [])) := by
    refine (congrArg (fun ins => Sys2Proof.core.run ins.length s) hin).trans ?_
    exact (clockLevelRefinesOperationLevel _ s hquiet hin).trans (opRun_fourTicks hquiet.1)
  exact ⟨_, hrun, afterFourTicks_cur _, afterFourTicks_db _, quiet_afterTick _,
    afterFourTicks_seen (s.withInputs []), afterFourTicks_trace _⟩

end Sys2Proof.Machine
end

section
/-! When a step stops: at an accepted word the host must not issue, and at nothing else (R185, R186). -/

namespace Sys2Proof.Machine

/-- The only operand without a result is that of an `ENCODE` above 9999 (R103, R185). -/
theorem wellFormed_eq_false_iff (i : Instr) : i.wellFormed = false ↔ ∃ v, i = .encode v ∧ 9999 < v.toNat := by
  cases i with
  | encode v =>
    have hrange : (Instr.encode v).wellFormed = false ↔ 9999 < v.toNat := decide_eq_false_iff_not.trans Nat.not_le
    simp [hrange]
  | _ => simp [Instr.wellFormed]

/-- The words the host must not issue are the reserved ones (R233) and the `ENCODE`s without a result (R229). -/
theorem mayIssue_eq_false_iff (w : CmdWord) :
    mayIssue w = false ↔
      (∃ e, decodeCommand w = .error e) ∨ ∃ v, decodeCommand w = .ok (.encode v) ∧ 9999 < v.toNat := by
  unfold mayIssue
  cases decodeCommand w with
  | error e => simp
  | ok i => simp [wellFormed_eq_false_iff]

/-- An accepted command is refused only as an `ENCODE` above 9999 (R103): every rendering finds its patterns (R61). -/
theorem exec_command_refused_encode {i : Instr} {s : State} {r : Refusal} (hcommand : i.isCommand = true)
    (hidle : s.ph = 0) (hexec : exec i s = .refused r) :
    r = .encoderInputOutOfRange ∧ ∃ v, i = .encode v ∧ 9999 < v.toNat := by
  rcases exec_command_refused hcommand hidle hexec with hencode | ⟨-, d, hnone⟩
  · exact hencode
  · rw [render_eq] at hnone
    cases hnone

/-- Settles O46: a micro-step of a legal phase has an event, so what stops is the acceptance of a word. -/
theorem stopsOnlyAtForbiddenWords : Obligations.StopsOnlyAtForbiddenWords := by
  intro s r hinv hstep
  obtain ⟨hrst, ⟨hbusy, -⟩ | ⟨hidle, hvalid, hreason, herror⟩ | ⟨i, ⟨-, hidle, hvalid, hdec⟩, hexec⟩⟩ :=
    step_refused_cases hstep
  · obtain ⟨e, -, hnext⟩ := step_eq_afterMicroStep hinv.phaseLegal hrst hbusy
    rw [hnext] at hstep
    cases hstep
  · exact ⟨hidle, hrst, hvalid, (mayIssue_eq_false_iff _).mpr (.inl herror), .inl ⟨hreason, herror⟩⟩
  · obtain ⟨hreason, v, rfl, hv⟩ :=
      exec_command_refused_encode (s := s.popInput) (isCommand_of_decode hdec) hidle hexec
    exact ⟨hidle, hrst, hvalid, (mayIssue_eq_false_iff _).mpr (.inr ⟨v, hdec, hv⟩), .inr ⟨hreason, v, hdec, hv⟩⟩

/-- Settles O45: there is no fault (R185), and a refusal would need a forbidden word on the port. -/
theorem obedientHostIsNeverRefused : Obligations.ObedientHostIsNeverRefused := by
  intro s hinv hobeys
  cases hstep : step s with
  | next s' => exact ⟨s', rfl⟩
  | fault f => cases f
  | refused r =>
    obtain ⟨-, -, hvalid, hforbidden, -⟩ := stopsOnlyAtForbiddenWords s r hinv hstep
    rw [PortIn.obeys, hvalid, hforbidden] at hobeys
    cases hobeys

end Sys2Proof.Machine
end

section
/-! One tick period from quiet to quiet: the `TICK` is accepted at its first edge, the 51 edges after it are the whole
transfer, and what is left of the period is idle (R226, R232). -/

namespace Sys2Proof.Machine

/-- The edge that presents a `TICK` to an idle block starts the refresh of the next digit (R147, R171). -/
theorem step_of_present_tick {s : State} {rest : List PortIn} (hidle : s.ph = 0)
    (hin : s.inputs = PortIn.present (cmdWord 3 0 0) :: rest) :
    step s = .next ((startRefresh (s.cur + 1) (advanceCursor s)).withInputs rest) := by
  have hstart := exec_tick_of_idle (s := s.withInputs []) hidle
  rw [step_of_present hidle hin, acceptCommand, decodeCommand_tick]
  exact congrArg (answerWithInputs rest) hstart

/-- A `TICK` presented to a quiet block takes 52 edges at the clock level, to the operation level's answer (R6, R145). -/
theorem run_present_tick {s : State} {rest : List PortIn} (hquiet : s.Quiet)
    (hin : s.inputs = PortIn.present (cmdWord 3 0 0) :: (List.replicate 51 PortIn.idle ++ rest)) :
    Sys2Proof.core.run 52 s = .next ((afterTick s).withInputs rest) := by
  obtain ⟨hidle, hsck, hlat⟩ := hquiet
  rw [run_of_step (step_of_present_tick hidle hin)]
  exact run_transfer_waiting (s := startRefresh (s.cur + 1) (advanceCursor s)) [] rest rfl hsck hlat

/-- An idle block to which nothing is presented changes nothing (R189 case 4). -/
theorem step_withInputs_idle {s : State} (rest : List PortIn) (hidle : s.ph = 0) :
    step (s.withInputs (PortIn.idle :: rest)) = .next (s.withInputs rest) := by
  have hready : (s.withInputs rest).busy = false := by simp [State.busy, hidle]
  change clockEdge PortIn.idle (s.withInputs rest) = _
  simp [clockEdge, PortIn.idle, hready]

/-- Nor does it over any number of such edges (R204). -/
theorem run_withInputs_idle {s : State} (rest : List PortIn) (hidle : s.ph = 0) (k : Nat) :
    Sys2Proof.core.run k (s.withInputs (List.replicate k PortIn.idle ++ rest)) = .next (s.withInputs rest) := by
  induction k with
  | zero => rfl
  | succ k ih =>
    rw [List.replicate_succ, List.cons_append, run_of_step (step_withInputs_idle _ hidle)]
    exact ih

/-- A period of `52 + k` clocks is the `TICK`, the 51 edges of its transfer and `k` idle edges (D20). -/
theorem tickPeriod_eq (k : Nat) :
    tickPeriod (52 + k) =
      PortIn.present (cmdWord 3 0 0) :: (List.replicate 51 PortIn.idle ++ List.replicate k PortIn.idle) := by
  rw [tickPeriod, List.replicate_append_replicate, show 52 + k - 1 = 51 + k by omega]

/-- One whole tick period at the clock level is one `TICK` at the operation level (R6, R226). -/
theorem run_tickPeriod {s : State} {rest : List PortIn} (k : Nat) (hquiet : s.Quiet)
    (hin : s.inputs = tickPeriod (52 + k) ++ rest) :
    Sys2Proof.core.run (52 + k) s = .next ((afterTick s).withInputs rest) := by
  rw [tickPeriod_eq, List.cons_append, List.append_assoc] at hin
  rw [run_add (run_present_tick hquiet hin)]
  exact run_withInputs_idle rest (afterTick_ph s) k

/-- Settles O39: a period of at least 52 clocks has room for the whole transfer, so it ends as the operation level's
`TICK` does. -/
theorem tickPeriodsAreSelfContained : Obligations.TickPeriodsAreSelfContained := by
  intro n s rest hperiod hquiet hin
  obtain ⟨k, rfl⟩ := Nat.exists_eq_add_of_le hperiod
  exact ⟨_, run_tickPeriod k hquiet hin, quiet_afterTick s, rfl, rfl, rfl, rfl, rfl⟩

end Sys2Proof.Machine
end

section
/-! What an edge of the clock does, by its kind (R189), and the obligations that say so one edge at a time. -/

namespace Sys2Proof.Machine

theorem nextInput_of_inputs {s : State} {p : PortIn} {rest : List PortIn} (hin : s.inputs = p :: rest) :
    s.nextInput = p := by
  rw [State.nextInput, hin, List.headD_cons]

theorem popInput_of_inputs {s : State} {p : PortIn} {rest : List PortIn} (hin : s.inputs = p :: rest) :
    s.popInput = s.withInputs rest := by
  rw [State.popInput, hin, List.tail_cons, State.withInputs]

/-- An edge without reset on an idle block looks at the command port and at nothing else (R189 cases 3 and 4). -/
theorem step_of_idle {s : State} (hrst : s.nextInput.rst = false) (hidle : s.ph = 0) :
    step s = if s.nextInput.cmdValid then acceptCommand s.nextInput.cmd s.popInput else .next s.popInput := by
  have hready : s.popInput.busy = false := by simp [State.busy, hidle]
  simp [step, clockEdge, hrst, hready]

/-- An accepted command runs as the instruction its word decodes to (R171). -/
theorem step_of_accepts {s : State} {i : Instr} (hacc : s.Accepts i) : step s = exec i s.popInput := by
  obtain ⟨hrst, hidle, hvalid, hdec⟩ := hacc
  rw [step_of_idle hrst hidle, if_pos hvalid, acceptCommand, hdec]

/-- The word first in the list of inputs is accepted on an idle block (R171). -/
theorem accepts_of_inputs {s : State} {p : PortIn} {rest : List PortIn} {i : Instr} (hin : s.inputs = p :: rest)
    (hrst : p.rst = false) (hidle : s.ph = 0) (hvalid : p.cmdValid = true) (hdec : decodeCommand p.cmd = .ok i) :
    s.Accepts i := by
  obtain rfl := nextInput_of_inputs hin
  exact ⟨hrst, hidle, hvalid, hdec⟩

/-- An edge that presents no command to an idle block only uses up its inputs (R189 case 4). -/
theorem step_of_no_command {s : State} (hrst : s.nextInput.rst = false) (hidle : s.ph = 0)
    (hvalid : s.nextInput.cmdValid = false) : step s = .next s.popInput := by
  rw [step_of_idle hrst hidle, hvalid, if_neg Bool.false_ne_true]

/-- Settles O8: the word is accepted. -/
theorem stepRunsThePresentedCommand : Obligations.StepRunsThePresentedCommand := by
  intro s p rest i hin hrst hidle hvalid hdec
  have hacc : s.Accepts i := accepts_of_inputs hin hrst hidle hvalid hdec
  exact (step_of_accepts hacc).trans (congrArg (exec i) (popInput_of_inputs hin))

/-- Settles O9: the edge of a busy block is the sequencer's, which runs the frame its word decodes to. -/
theorem stepRunsTheFrameInFlight : Obligations.StepRunsTheFrameInFlight := by
  intro s i hrst hbusy hdec
  have hframe : sequencerEdge s.popInput = exec i s.popInput := by rw [sequencerEdge, popInput_txw, hdec]
  exact (step_of_busy hrst hbusy).trans ((sequencerEdge_of_busy (s := s.popInput) hbusy).symm.trans hframe)

/-- An edge without reset on a busy block does not look at the command port (R189 case 2). -/
theorem step_withInputs_of_busy {s : State} {p q : PortIn} (rest : List PortIn) (hp : p.rst = false)
    (hq : q.rst = false) (hbusy : s.ph ≠ 0) :
    step (s.withInputs (p :: rest)) = step (s.withInputs (q :: rest)) :=
  (step_of_busy (s := s.withInputs (p :: rest)) hp hbusy).trans
    (step_of_busy (s := s.withInputs (q :: rest)) hq hbusy).symm

/-- Settles O10: one rule for each of the three kinds of edge. -/
theorem edgePriorities : Obligations.EdgePriorities := by
  intro s p q rest
  refine ⟨fun hp hq => ?_, fun hrst hidle hvalid => ?_, fun hp hq hbusy => step_withInputs_of_busy rest hp hq hbusy⟩
  · exact (step_of_reset (s := s.withInputs (p :: rest)) hp).trans
      (step_of_reset (s := s.withInputs (q :: rest)) hq).symm
  · exact step_of_no_command (s := s.withInputs (p :: rest)) hrst hidle hvalid

/-- Settles O14: every command waits for a ready port. -/
theorem commandsDoNothingWhileBusy : Obligations.CommandsDoNothingWhileBusy := by
  intro i s hcommand hbusy
  cases i with
  | nop | encode v | renderN v | renderP p | tick | refresh d => exact whenReady_of_busy hbusy _
  | frameD0 seg | frameD1 seg | frameD2 seg | frameD3 seg => cases hcommand

/-- Settles O15, by induction on the number of edges: each is an edge without a command, as are those past the listed
inputs. -/
theorem idleEdgesChangeNothing : Obligations.IdleEdgesChangeNothing := by
  intro n
  induction n with
  | zero => exact fun s _ _ => run_zero s
  | succ n ih =>
    intro s hidle hquiet
    obtain ⟨⟨hrst, hvalid⟩, hrest⟩ : (s.nextInput.rst = false ∧ s.nextInput.cmdValid = false) ∧
        ∀ p ∈ s.popInput.inputs.take n, p.rst = false ∧ p.cmdValid = false := by
      cases hin : s.inputs with
      | nil => simp [State.nextInput, hin, PortIn.idle]
      | cons p ps => simpa [State.nextInput, hin] using hquiet
    rw [run_of_step (step_of_no_command hrst hidle hvalid), ih s.popInput hidle hrest, popInput_inputs, List.drop_tail]
    rfl

/-- `NOP` answers every state as it is, on a ready port and on a closed one (R172). -/
theorem exec_nop (s : State) : exec .nop s = .next s := ite_self (Host.Outcome.next s)

/-- The words with `op` 0, whatever their other bits (R83, R84). -/
theorem decodeCommand_of_lt {w : CmdWord} (h : w.toNat < 0x20000) : decodeCommand w = .ok .nop := by
  obtain ⟨op, t, arg, rfl⟩ := exists_eq_cmdWord w
  rw [toNat_cmdWord] at h
  obtain rfl : op = 0 := BitVec.eq_of_toNat_eq (by simp; omega)
  exact decodeCommand_nop t arg

/-- Settles O30: on an idle block the accepted `NOP` and the edge without a command both use up the inputs alone; a busy
block does not look at the port. -/
theorem nopCompletes : Obligations.NopCompletes := by
  refine ⟨exec_nop, fun s w rest hw => ?_⟩
  by_cases hidle : s.ph = 0
  · have hacc : (s.withInputs (PortIn.present w :: rest)).Accepts .nop :=
      ⟨rfl, hidle, rfl, decodeCommand_of_lt (w := w) hw⟩
    calc step (s.withInputs (PortIn.present w :: rest))
        = .next (s.withInputs rest) := (step_of_accepts hacc).trans (exec_nop _)
      _ = step (s.withInputs (PortIn.idle :: rest)) := (step_withInputs_idle rest hidle).symm
  · exact step_withInputs_of_busy rest rfl rfl hidle

/-- Settles O53: `busy` and `cmd_ready` are tests of the phase, the other ports are registers. -/
theorem portsShowRegisters : Obligations.PortsShowRegisters := by
  intro s
  have hready : s.cmdReady = true ↔ s.ph = 0 := by simp [State.cmdReady, State.busy]
  exact ⟨busy_iff s, hready, rfl, rfl, rfl, rfl, rfl⟩

end Sys2Proof.Machine
end

section
/-! Reset (R35, R220 to R225): the reset edge, the reset state, and the first frames from it. -/

namespace Sys2Proof.Machine

/-- Settles O11: reset comes before everything at an edge, and its named update lists the reset values. -/
theorem resetEdge : Obligations.ResetEdge := fun _ hrst => step_of_reset hrst

/-- Settles O38: the reset edge leaves the receiver as it is, and the invariant says what it holds. -/
theorem resetAbandonsTheTransfer : Obligations.ResetAbandonsTheTransfer := by
  intro s hinv hbusy hrst
  obtain ⟨hsr, hout⟩ := hinv.receiver hbusy
  exact ⟨_, step_of_reset hrst, rfl, rfl, rfl, rfl, hsr, rfl, hout⟩

/-- The buffer is dark after reset (R35). -/
theorem dbsRead_afterReset (t : SegTable) (sr out : Word16) (ins : List PortIn) (i : Digit) :
    dbsRead (State.afterReset t sr out ins) i = Config.blank := by
  have hdark : ∀ i : Digit, dbsRead State.reset i = Config.blank := by decide
  exact (dbsRead_congr rfl i).trans (hdark i)

/-- Settles O12: the reset state is written out; its phase makes the port ready. -/
theorem resetStateValues : Obligations.ResetStateValues := fun t sr out ins =>
  ⟨dbsRead_afterReset t sr out ins, rfl, rfl, rfl, rfl, rfl⟩

/-- In the reset state the block is idle with its lines low, the buffer is dark, nothing has been seen, and `BCD` is zero
(R35). -/
theorem inv_afterReset (t : SegTable) (sr out : Word16) (ins : List PortIn) :
    (State.afterReset t sr out ins).Inv where
  phaseLegal := Nat.zero_le _
  clocks := ⟨rfl, rfl⟩
  data := ⟨fun _ => BitVec.getLsbD_zero.symm, fun h2 => absurd h2 (Nat.not_succ_le_zero 1)⟩
  frame := fun hbusy => absurd rfl hbusy
  receiver := fun hbusy => absurd rfl hbusy
  buffer := fun i => .inl (dbsRead_afterReset t sr out ins i)
  seen := by
    have hnone : ∀ i : Fin 4, State.reset.seen[i] = none := by decide
    intro i p hp
    cases (hnone i).symm.trans hp
  bcd := by
    have hzero : State.reset.BcdDecimal := by decide
    exact hzero

/-- Settles O44: the state after reset is one of these. -/
theorem resetStateHasInvariant : Obligations.ResetStateHasInvariant := ⟨inv_afterReset _ _ _ _, inv_afterReset⟩

/-- Four ticks presented to a quiet block, each held until it is accepted, take 208 edges (R6, R145, R148). -/
theorem run_fourTicks {s : State} (hquiet : s.Quiet)
    (hin : s.inputs = holdStream [0x60000, 0x60000, 0x60000, 0x60000]) :
    Sys2Proof.core.run 208 s = .next (afterFourTicks (s.withInputs [])) :=
  (clockLevelRefinesOperationLevel _ s hquiet hin).trans (opRun_fourTicks hquiet.1)

/-- After four ticks the outputs hold the frame of the digit the cursor stands at (R148, R151). -/
theorem afterFourTicks_out (s : State) : (afterFourTicks s).out = frame s.cur (dbsRead s s.cur) := by
  obtain ⟨h2, h3, h4⟩ := digit_add_one s.cur
  have hout (u : State) : (afterTick u).out = frame (u.cur + 1) (dbsRead u (u.cur + 1)) := rfl
  simp only [afterFourTicks, hout, afterTick_cur, dbsRead_afterTick, h2, h3, h4]

/-- The frame of a blank pattern lights nothing (R76, R200). -/
theorem lit_frame_blank (i j : Digit) (x : Segment) : lit (frame i Config.blank) j x = false := by
  have hblank : ∀ n < 8, Config.blank.getLsbD n = true := by decide
  rw [lit, getLsbD_frame_of_lt i _ (segment_bit_lt x), hblank _ (segment_bit_lt x), Bool.not_true, Bool.and_false]

/-- Settles O41: the cursor stands at 3, so the four ticks send the frames of digits 0, 1, 2, 3, each of the blank
pattern. -/
theorem firstFramesAfterResetAreDark : Obligations.FirstFramesAfterResetAreDark := by
  intro t sr out
  have hdark : ∀ i, dbsRead (State.afterReset t sr out []) i = Config.blank := dbsRead_afterReset t sr out []
  have hcur : (State.afterReset t sr out []).cur = 3 := rfl
  refine ⟨afterFourTicks (State.afterReset t sr out []), run_fourTicks ⟨rfl, rfl, rfl⟩ rfl, ?_,
    afterFourTicks_cur _, fun i x => ?_⟩
  · rw [afterFourTicks_trace]
    simp only [hdark, hcur]
    rfl
  · rw [afterFourTicks_out, hdark]
    exact lit_frame_blank _ i x

end Sys2Proof.Machine
end

section
/-! How long a refresh keeps the block busy (R145, R231). -/

namespace Sys2Proof.Machine

/-- No reset for `n + 1` edges: none at the next edge, and none at the `n` after it. -/
theorem noResetFor_succ {s : State} {n : Nat} (h : s.noResetFor (n + 1) = true) :
    s.nextInput.rst = false ∧ s.popInput.noResetFor n = true := by
  cases hin : s.inputs with
  | nil => simp [State.nextInput, State.noResetFor, hin, PortIn.idle]
  | cons p ps => simpa [State.nextInput, State.noResetFor, hin] using h

/-- The edge that accepts a `TICK` or a `REFRESH` ends at the first micro-step, its inputs used up (R146, R147). -/
theorem step_starts_refresh {s : State} (hacc : s.Accepts .tick ∨ ∃ i, s.Accepts (.refresh i)) :
    ∃ t, step s = .next t ∧ t.ph = 1 ∧ t.inputs = s.popInput.inputs := by
  rcases hacc with hacc | ⟨i, hacc⟩
  · have ⟨_, hidle, _⟩ := hacc
    exact ⟨_, (step_of_accepts hacc).trans (exec_tick_of_idle (s := s.popInput) hidle), rfl, rfl⟩
  · have ⟨_, hidle, _⟩ := hacc
    exact ⟨_, (step_of_accepts hacc).trans (exec_refresh_of_idle (s := s.popInput) i hidle), rfl, rfl⟩

/-- Settles O37: the accepting edge ends at phase 1, and each of the 51 micro-steps after it moves the phase on by one,
the last to 0. -/
theorem refreshOccupiesFiftyTwoEdges : Obligations.RefreshOccupiesFiftyTwoEdges := by
  intro s p rest hin hidle hreset hvalid hdec
  obtain ⟨hrst, hreset⟩ := noResetFor_succ hreset
  rw [nextInput_of_inputs hin] at hrst
  have haccepts {i : Instr} (h : decodeCommand p.cmd = .ok i) : s.Accepts i :=
    accepts_of_inputs hin hrst hidle hvalid h
  obtain ⟨t, hstep, hph, hinputs⟩ := step_starts_refresh (hdec.imp haccepts fun ⟨i, h⟩ => ⟨i, haccepts h⟩)
  have htransfer : t.noResetFor 51 = true := by rwa [State.noResetFor, hinputs]
  have hrun {n : Nat} (hn : n ≤ 51) : Sys2Proof.core.run (n + 1) s = .next (duringTransfer n t) :=
    (run_of_step hstep n).trans (run_transfer hph htransfer hn)
  refine ⟨fun n h1 h51 => ?_, _, hrun (le_refl 51), rfl⟩
  obtain ⟨m, rfl⟩ := Nat.exists_eq_add_of_le' h1
  exact ⟨_, hrun (by omega), toNat_phaseAfter h51⟩

end Sys2Proof.Machine
end

section
/-! What the spec writes out: the encoder's worked run (R106), the default table (R74), the pseudo-operations
(R88). -/

namespace Sys2Proof.Machine

/-- Settles O18: the model's encoder run on 243, against the spec's listing. -/
theorem encoderRunOf243 : Obligations.EncoderRunOf243 := by
  unfold Obligations.EncoderRunOf243
  decide

/-- Settles O52: the eleven bytes are the definition's, and each constraint of R75 is checked on them. -/
theorem defaultTableIsLegal : Obligations.DefaultTableIsLegal := by
  have hdistinct : Config.defaultSegTable.Distinct := by decide
  have hdot : Config.defaultSegTable.DotEntry := by decide
  have hnoBlank : Config.defaultSegTable.NoBlank := by decide
  exact ⟨rfl, hdistinct, hdot, hnoBlank⟩

/-- Settles O54: each expansion is the clause of `AsmLine.expand` for its line. -/
theorem pseudoOperationsExpand : Obligations.PseudoOperationsExpand :=
  ⟨fun _ => rfl, fun _ => rfl, rfl, fun _ => rfl⟩

end Sys2Proof.Machine
end
